-- ==== Sys2Proof/Word.lean ====
section
/-! DEFINITION. The machine's word types (00_scope.md R6, R9): bytes, 16-bit words, register numbers. -/

namespace Sys2Proof

/-- A heap byte, a general register, a timer (R6). -/
abbrev Byte := BitVec 8

/-- An instruction word, the index register, the program counter, a return address (R6). -/
abbrev Word := BitVec 16

/-- The number of a general register, 0 to 15 (R20, R21). -/
abbrev Reg := Fin 16

end Sys2Proof
end

