-- ==== Sys2Proof/Syntax.lean ====
section
/-! DEFINITION. The 35 instructions of the opcode map (30_encoding.md R85), one constructor per row, in the table's
order, with every field its format names (R82); fields an instruction ignores are kept (R88). -/

namespace Sys2Proof

/-- An instruction (R85). `x` and `y` are register numbers, `kk`, `nnn` and `n` the fields of R81. -/
inductive Instr
  | cls
  | ret
  | sys (nnn : BitVec 12)
  | jp (nnn : BitVec 12)
  | call (nnn : BitVec 12)
  | seImm (x : Reg) (kk : Byte)
  | sneImm (x : Reg) (kk : Byte)
  | seReg (x y : Reg)
  | ldImm (x : Reg) (kk : Byte)
  | addImm (x : Reg) (kk : Byte)
  | ldReg (x y : Reg)
  | orReg (x y : Reg)
  | andReg (x y : Reg)
  | xorReg (x y : Reg)
  | addReg (x y : Reg)
  | sub (x y : Reg)
  | shr (x y : Reg)
  | subn (x y : Reg)
  | shl (x y : Reg)
  | sneReg (x y : Reg)
  | ldI (nnn : BitVec 12)
  | jpV0 (nnn : BitVec 12)
  | rnd (x : Reg) (kk : Byte)
  | drw (x y : Reg) (n : Fin 16)
  | skp (x : Reg)
  | sknp (x : Reg)
  | ldVxDt (x : Reg)
  | ldKey (x : Reg)
  | ldDt (x : Reg)
  | ldSt (x : Reg)
  | addI (x : Reg)
  | ldFont (x : Reg)
  | ldBcd (x : Reg)
  | stRegs (x : Reg)
  | ldRegs (x : Reg)
  deriving DecidableEq, Repr

end Sys2Proof
end

