-- ==== Sys2Proof/WellFormed.lean ====
section
/-! DEFINITION. Which instruction terms are instructions: the operand types hold every bound of R81, and the one check
left is SYS's (30_encoding.md R86). -/

namespace Sys2Proof

/-- R86: SYS is every word 0x0000 to 0x0FFF other than 0x00E0 (CLS) and 0x00EE (RET). Every operand of every other
instruction is admitted. -/
def WellFormed : Instr → Bool
  | .sys nnn => decide (nnn ≠ 0x0E0#12) && decide (nnn ≠ 0x0EE#12)
  | .cls => true
  | .ret => true
  | .jp _ => true
  | .call _ => true
  | .seImm _ _ => true
  | .sneImm _ _ => true
  | .seReg _ _ => true
  | .ldImm _ _ => true
  | .addImm _ _ => true
  | .ldReg _ _ => true
  | .orReg _ _ => true
  | .andReg _ _ => true
  | .xorReg _ _ => true
  | .addReg _ _ => true
  | .sub _ _ => true
  | .shr _ _ => true
  | .subn _ _ => true
  | .shl _ _ => true
  | .sneReg _ _ => true
  | .ldI _ => true
  | .jpV0 _ => true
  | .rnd _ _ => true
  | .drw _ _ _ => true
  | .skp _ => true
  | .sknp _ => true
  | .ldVxDt _ => true
  | .ldKey _ => true
  | .ldDt _ => true
  | .ldSt _ => true
  | .addI _ => true
  | .ldFont _ => true
  | .ldBcd _ => true
  | .stRegs _ => true
  | .ldRegs _ => true

end Sys2Proof
end

