-- ==== Sys2Proof/Decode.lean ====
section
/-! DEFINITION. The Word Decoder and the dispatch on the opcode map (30_encoding.md R80 to R88), total on any word and
any bytes, and the encoder written from the same table. -/

namespace Sys2Proof

/-- Why bytes are no instruction: the word matches no row of R85, or there are fewer than two bytes. -/
inductive DecodeError
  | illegal (w : Word)
  | truncated
  deriving DecidableEq, Repr

/-- R9: `w[hi:lo]`, read as an unsigned number. -/
def slice (w : Word) (hi lo : Nat) : Nat := w.toNat / 2 ^ lo % 2 ^ (hi + 1 - lo)

/-- R81: `c = w[15:12]`, the opcode class. -/
def fieldC (w : Word) : Nat := slice w 15 12

/-- R81: `x = w[11:8]`. -/
def fieldX (w : Word) : Reg := ⟨slice w 11 8, Nat.mod_lt _ (by decide)⟩

/-- R81: `y = w[7:4]`. -/
def fieldY (w : Word) : Reg := ⟨slice w 7 4, Nat.mod_lt _ (by decide)⟩

/-- R81: `n = w[3:0]`. -/
def fieldN (w : Word) : Fin 16 := ⟨slice w 3 0, Nat.mod_lt _ (by decide)⟩

/-- R81: `kk = w[7:0]`. -/
def fieldKK (w : Word) : Byte := BitVec.ofNat 8 (slice w 7 0)

/-- R81: `nnn = w[11:0]`. -/
def fieldNNN (w : Word) : BitVec 12 := BitVec.ofNat 12 (slice w 11 0)

/-- R84, R86: class 0 is CLS and RET on the whole word, SYS otherwise. -/
def decodeClass0 (w : Word) : Instr :=
  if w = 0x00E0#16 then .cls else if w = 0x00EE#16 then .ret else .sys (fieldNNN w)

/-- R84: class 8 dispatches on `n`. -/
def decodeClass8 (w : Word) : Except DecodeError Instr :=
  match (fieldN w).val with
  | 0x0 => .ok (.ldReg (fieldX w) (fieldY w))
  | 0x1 => .ok (.orReg (fieldX w) (fieldY w))
  | 0x2 => .ok (.andReg (fieldX w) (fieldY w))
  | 0x3 => .ok (.xorReg (fieldX w) (fieldY w))
  | 0x4 => .ok (.addReg (fieldX w) (fieldY w))
  | 0x5 => .ok (.sub (fieldX w) (fieldY w))
  | 0x6 => .ok (.shr (fieldX w) (fieldY w))
  | 0x7 => .ok (.subn (fieldX w) (fieldY w))
  | 0xE => .ok (.shl (fieldX w) (fieldY w))
  | _ => .error (.illegal w)

/-- R84: class E dispatches on `kk`. -/
def decodeClassE (w : Word) : Except DecodeError Instr :=
  match slice w 7 0 with
  | 0x9E => .ok (.skp (fieldX w))
  | 0xA1 => .ok (.sknp (fieldX w))
  | _ => .error (.illegal w)

/-- R84: class F dispatches on `kk`. -/
def decodeClassF (w : Word) : Except DecodeError Instr :=
  match slice w 7 0 with
  | 0x07 => .ok (.ldVxDt (fieldX w))
  | 0x0A => .ok (.ldKey (fieldX w))
  | 0x15 => .ok (.ldDt (fieldX w))
  | 0x18 => .ok (.ldSt (fieldX w))
  | 0x1E => .ok (.addI (fieldX w))
  | 0x29 => .ok (.ldFont (fieldX w))
  | 0x33 => .ok (.ldBcd (fieldX w))
  | 0x55 => .ok (.stRegs (fieldX w))
  | 0x65 => .ok (.ldRegs (fieldX w))
  | _ => .error (.illegal w)

/-- R84 to R87: the instruction a word selects; a word that matches no row is illegal. Classes 5 and 9 need
`n = 0` (C1). -/
def decode (w : Word) : Except DecodeError Instr :=
  match fieldC w with
  | 0x0 => .ok (decodeClass0 w)
  | 0x1 => .ok (.jp (fieldNNN w))
  | 0x2 => .ok (.call (fieldNNN w))
  | 0x3 => .ok (.seImm (fieldX w) (fieldKK w))
  | 0x4 => .ok (.sneImm (fieldX w) (fieldKK w))
  | 0x5 => if fieldN w = 0 then .ok (.seReg (fieldX w) (fieldY w)) else .error (.illegal w)
  | 0x6 => .ok (.ldImm (fieldX w) (fieldKK w))
  | 0x7 => .ok (.addImm (fieldX w) (fieldKK w))
  | 0x8 => decodeClass8 w
  | 0x9 => if fieldN w = 0 then .ok (.sneReg (fieldX w) (fieldY w)) else .error (.illegal w)
  | 0xA => .ok (.ldI (fieldNNN w))
  | 0xB => .ok (.jpV0 (fieldNNN w))
  | 0xC => .ok (.rnd (fieldX w) (fieldKK w))
  | 0xD => .ok (.drw (fieldX w) (fieldY w) (fieldN w))
  | 0xE => decodeClassE w
  | _ => decodeClassF w

/-- R54, R80: the word of two consecutive bytes, the byte at the lower address in bits 15 to 8. -/
def wordOfBytes (high low : Byte) : Word := BitVec.ofNat 16 (high.toNat * 256 + low.toNat)

/-- R80: the two bytes of a word, the one at the lower address first. -/
def bytesOfWord (w : Word) : List Byte := [BitVec.ofNat 8 (slice w 15 8), BitVec.ofNat 8 (slice w 7 0)]

/-- R80, R90: every instruction is two bytes; the instruction at the head of a list of bytes and the rest of them. -/
def decodeBytes : List Byte → Except DecodeError (Instr × List Byte)
  | high :: low :: rest => (decode (wordOfBytes high low)).map (fun i => (i, rest))
  | _ => .error .truncated

/-- R82, formats FIXED and A: the class in bits 15 to 12, `nnn` below. -/
def assembleA (c : Nat) (nnn : BitVec 12) : Word := BitVec.ofNat 16 (c * 4096 + nnn.toNat)

/-- R82, formats XK and XF: the class, `x` in bits 11 to 8, the low byte. -/
def assembleXK (c : Nat) (x : Reg) (kk : Byte) : Word := BitVec.ofNat 16 (c * 4096 + x.val * 256 + kk.toNat)

/-- R82, formats XY and XYN: the class, `x`, `y` in bits 7 to 4, the low nibble. -/
def assembleXY (c : Nat) (x y : Reg) (n : Fin 16) : Word :=
  BitVec.ofNat 16 (c * 4096 + x.val * 256 + y.val * 16 + n.val)

/-- R85: the word of an instruction. -/
def encode : Instr → Word
  | .cls => assembleA 0x0 0x0E0#12
  | .ret => assembleA 0x0 0x0EE#12
  | .sys nnn => assembleA 0x0 nnn
  | .jp nnn => assembleA 0x1 nnn
  | .call nnn => assembleA 0x2 nnn
  | .seImm x kk => assembleXK 0x3 x kk
  | .sneImm x kk => assembleXK 0x4 x kk
  | .seReg x y => assembleXY 0x5 x y 0x0
  | .ldImm x kk => assembleXK 0x6 x kk
  | .addImm x kk => assembleXK 0x7 x kk
  | .ldReg x y => assembleXY 0x8 x y 0x0
  | .orReg x y => assembleXY 0x8 x y 0x1
  | .andReg x y => assembleXY 0x8 x y 0x2
  | .xorReg x y => assembleXY 0x8 x y 0x3
  | .addReg x y => assembleXY 0x8 x y 0x4
  | .sub x y => assembleXY 0x8 x y 0x5
  | .shr x y => assembleXY 0x8 x y 0x6
  | .subn x y => assembleXY 0x8 x y 0x7
  | .shl x y => assembleXY 0x8 x y 0xE
  | .sneReg x y => assembleXY 0x9 x y 0x0
  | .ldI nnn => assembleA 0xA nnn
  | .jpV0 nnn => assembleA 0xB nnn
  | .rnd x kk => assembleXK 0xC x kk
  | .drw x y n => assembleXY 0xD x y n
  | .skp x => assembleXK 0xE x 0x9E#8
  | .sknp x => assembleXK 0xE x 0xA1#8
  | .ldVxDt x => assembleXK 0xF x 0x07#8
  | .ldKey x => assembleXK 0xF x 0x0A#8
  | .ldDt x => assembleXK 0xF x 0x15#8
  | .ldSt x => assembleXK 0xF x 0x18#8
  | .addI x => assembleXK 0xF x 0x1E#8
  | .ldFont x => assembleXK 0xF x 0x29#8
  | .ldBcd x => assembleXK 0xF x 0x33#8
  | .stRegs x => assembleXK 0xF x 0x55#8
  | .ldRegs x => assembleXK 0xF x 0x65#8

/-- The word of an opcode-table row, from its number as the table counts bits (the table gives every row its 16 bits;
bits above `nbits` are 0). -/
def tableWord (nbits w : Nat) : Word := BitVec.ofNat 16 (w % 2 ^ nbits)

/-- The instruction the decoder reads from the bytes of a table word, laid out as the hardware stores them (R54). -/
def decodeTableWord (nbits w : Nat) : Option Instr :=
  match decodeBytes (bytesOfWord (tableWord nbits w)) with
  | .ok (i, _) => some i
  | .error _ => none

end Sys2Proof
end

