-- ==== Sys2Proof/Config.lean ====
section
/-! DEFINITION. What an implementation fixes: the sizes of R6, the parameters of R7, and the values the spec leaves
free, as constants without a body. -/

namespace Sys2Proof

/-- The heap's size in bytes (R6, R50). -/
abbrev heapSize : Nat := 4096

/-- The size of the font, which stands at heap address 0 (R6, R61). -/
abbrev fontSize : Nat := 80

/-- The address where execution begins and the ROM is loaded (R6, R61). -/
abbrev resetVector : Nat := 512

/-- The longest ROM that fits between the reset vector and the heap's end (R7, R63). -/
abbrev maxRomLength : Nat := 3584

/-- The 80 glyph bytes (R62). -/
abbrev Font := Vector Byte 80

/-- The parameter SUB_UNDERFLOW of R7: what SUB and SUBN do when the subtrahend is larger (R127, R129). -/
inductive SubPolicy
  | wrap
  | fault
  deriving DecidableEq, Repr

/-- The parameters of R7. The spec says they are not state (R40). The state carries them unchanged, so that a
statement for every state holds for every value of them (log entry 1). -/
structure Params where
  /-- `M`, cycles per timer tick. -/
  clockMultiplier : Nat
  /-- `ROM`, the program image every reset loads. -/
  rom : List Byte
  /-- `FONT`, the glyphs every reset loads. -/
  font : Font
  /-- `SUB_UNDERFLOW`. -/
  subUnderflow : SubPolicy
  /-- The model's unit of time: how many units a nanosecond has (log entry 10). -/
  unitsPerNanosecond : Nat
  /-- `T_CYCLE_NS`, the period of one cycle, in units of time: `cyclePeriod / unitsPerNanosecond` nanoseconds, which is
  any positive rational. -/
  cyclePeriod : Nat
  deriving DecidableEq, Repr

/-- The preconditions R7 and R63 put on the parameters. -/
def Params.wf (p : Params) : Bool :=
  decide (1 ≤ p.clockMultiplier) && decide (p.rom.length ≤ maxRomLength) && decide (1 ≤ p.cyclePeriod) &&
    decide (1 ≤ p.unitsPerNanosecond)

/-- PRESUMED (log entry 2): the default FONT of R62, which the spec marks as general knowledge. -/
def Config.defaultFont : Font :=
  #v[0xF0, 0x90, 0x90, 0x90, 0xF0,  0x20, 0x60, 0x20, 0x20, 0x70,
     0xF0, 0x10, 0xF0, 0x80, 0xF0,  0xF0, 0x10, 0xF0, 0x10, 0xF0,
     0x90, 0x90, 0xF0, 0x10, 0x10,  0xF0, 0x80, 0xF0, 0x10, 0xF0,
     0xF0, 0x80, 0xF0, 0x90, 0xF0,  0xF0, 0x10, 0x20, 0x40, 0x40,
     0xF0, 0x90, 0xF0, 0x90, 0xF0,  0xF0, 0x90, 0xF0, 0x10, 0xF0,
     0xF0, 0x90, 0xF0, 0x90, 0x90,  0xE0, 0x90, 0xE0, 0x90, 0xE0,
     0xF0, 0x80, 0x80, 0x80, 0xF0,  0xE0, 0x90, 0x90, 0x90, 0xE0,
     0xF0, 0x80, 0xF0, 0x80, 0xF0,  0xF0, 0x80, 0xF0, 0x80, 0x80]

/-- The parameters `State.reset` starts from: the spec's defaults where it gives one (SUB_UNDERFLOW, FONT, the period
10^9/(60 M) ns, exactly); DESIGN CHOICE (log entry 1): `M` = 11, the source's example, and no ROM. -/
def Config.defaultParams : Params where
  clockMultiplier := 11
  rom := []
  font := Config.defaultFont
  subUnderflow := .wrap
  unitsPerNanosecond := 60 * 11
  cyclePeriod := 1000000000

/-- FREE VALUE (R131, D23; log entry 4): the byte the random source answers to its n-th call. -/
opaque Config.randomByte : Nat → Byte

/-- FREE VALUE (R33, R202, D12; log entry 3): a number whose residue modulo `M` is `PSC0` at the n-th reset. -/
opaque Config.prescalerPhase : Nat → Nat

/-- FREE VALUE (R185, D27; log entry 9): whether the keyboard keeps a pending reset signal across its n-th reset. -/
opaque Config.keepsResetSignal : Nat → Bool

/-- FREE VALUE (R185, D27; log entry 9): whether the keyboard keeps a pending power-off signal across its n-th reset. -/
opaque Config.keepsPowerOffSignal : Nat → Bool

/-- One millisecond, in units of time (R217; log entry 10). -/
def Params.oneMillisecond (p : Params) : Nat := p.unitsPerNanosecond * 1000000

end Sys2Proof
end

