-- ==== Sys2Proof/Machine/State.lean ====
section
/-! DEFINITION. The state of the core and of the devices that close its loop (10_state.md R20 to R43), the reasons a
step can stop, and the state after reset. -/

namespace Sys2Proof.Machine

/-- The fatal faults, named as D31 names them (60_exceptions.md R170 to R175). Each is raised through `raise` and is
safe: the machine stops where the spec says it stops. -/
inductive Fault
  /-- R171: the fetched word matches no row of the opcode map. Raised by the cycle. Safe. -/
  | invalidInstruction (w : Word)
  /-- R51 to R54, R172: an access of `len` bytes at `addr` leaves the heap. Raised by the fetch, DRW, LD_BCD, ST_REGS,
  LD_REGS and `load`. Safe. -/
  | outOfBounds (addr len : Nat)
  /-- R57, R172: a push at SP = 16. Raised by CALL. Safe. -/
  | stackOverflow
  /-- R58, R172: a pop at SP = 0. Raised by RET. Safe. -/
  | stackUnderflow
  /-- R166, R174: a key number above 15. Raised by SKP and SKNP. Safe. -/
  | badKeyIndex (v : Byte)
  /-- R127, R129, R174: the subtrahend is larger and SUB_UNDERFLOW is `fault`. Raised by SUB and SUBN. Safe. -/
  | arithmeticUnderflow
  deriving DecidableEq, Repr

/-- Why a step has no meaning. -/
inductive Refusal
  /-- Raised by `exec` for an instruction without a meaning (none is left). Safe. -/
  | notModelled (mnemonic : String)
  /-- R178: raised by `step` in `Halted`, where the loop has ended and nothing follows. Safe. -/
  | halted
  /-- R162, U10: raised by LD_KEY when the keyboard has reported no key and none of the host's coming turns reports one:
  the cycle has no successor until the host supplies a key. Safe. -/
  | waitingForKey
  deriving DecidableEq, Repr

/-- R34: `RUN`. `Idle` is not represented, as R42 says. -/
inductive RunState
  /-- After `load` and `run`. -/
  | running
  /-- R178: a poll found the power-off signal; terminal. -/
  | halted
  /-- R173: a fault ended execution; terminal. Entering it is the step's outcome `.fault f` (log entry 5); a step of a
  state that holds this value answers `.fault f` again. -/
  | faulted (f : Fault)
  deriving DecidableEq, Repr

/-- The calls the core makes of its devices (60_exceptions.md R184 to R187). -/
inductive DeviceCall
  | dispClear
  | dispDraw (sprite : List Byte) (x0 y0 : Byte)
  | dispPresent
  | dispReset
  | kbdPressed (key : Fin 16)
  | kbdWaitKey
  | kbdResetSignal
  | kbdPowerOffSignal
  | kbdReset
  | buzStart
  | buzStop
  | buzReset
  | rngNext
  deriving DecidableEq, Repr

/-- What the environment may do next (R193, R222; log entry 7). -/
inductive HostTurn
  /-- The host presses and releases keys: the state of all 16 from now on (R39). -/
  | setKeys (pressed : Vector Bool 16)
  /-- The keyboard reports a key to a wait (R162). -/
  | reportKey (key : Fin 16)
  /-- The host raises the reset signal (R37). -/
  | raiseReset
  /-- The host raises the power-off signal (R37). -/
  | raisePowerOff
  /-- The clock has moved on by `elapsed` when the pacing loop reads it; `sleep` is how long the loop sleeps if it takes
  its idle branch (R216, R217). While LD_KEY blocks the loop reads nothing, and only the time passes (R218). -/
  | clock (elapsed sleep : Nat)
  deriving DecidableEq, Repr

/-- R153: the display's bit plane, row by row. -/
abbrev Screen := Vector (Vector Bool 64) 32

/-- R35, R50: the heap's bytes that differ from what an unlisted address reads as, by rising address. -/
abbrev Memory := List Host.Cell

/-- The state (R43). -/
structure State where
  /-- R20: `V[0]` to `V[15]`; `V[15]` is the flag (R22). -/
  v : Vector Byte 16
  /-- R24: `I`. -/
  i : Word
  /-- R25: `PC`. -/
  pc : Word
  /-- R29: `DT`. -/
  dt : Byte
  /-- R30: `ST`. -/
  st : Byte
  /-- R31: `SP`, 0 to 16. -/
  sp : Fin 17
  /-- R32: `STACK[0..15]`. -/
  stack : Vector Word 16
  /-- R35: `HEAP`. -/
  heap : Memory
  /-- R33: `PSC`. -/
  psc : Nat
  /-- R34: `RUN`. -/
  run : RunState
  /-- R36: `DL`, the time the next cycle is due. -/
  dl : Nat
  /-- R188: what the clock last answered. -/
  now : Nat
  /-- R38, R153: `FB`, the display device's bit plane. -/
  fb : Screen
  /-- R39: `KEY[0..15]`, the keyboard device's key states. -/
  keys : Vector Bool 16
  /-- R162, R185: the key the keyboard device has reported and no wait has taken, if any (log entry 9). -/
  keyReport : Option (Fin 16)
  /-- R37: the pending reset signal. -/
  resetSignal : Bool
  /-- R37: the pending power-off signal. -/
  powerOffSignal : Bool
  /-- R39, R186: whether the buzzer sounds. -/
  buzzing : Bool
  /-- The model's own: the device calls made, newest first (R67; log entry 11). -/
  calls : List DeviceCall
  /-- The model's own: how many random bytes have been asked for (log entry 4). -/
  rngCount : Nat
  /-- The model's own: how many resets have been done since the state after reset (log entries 3, 9). -/
  resetCount : Nat
  /-- The model's own: the environment's coming turns, next one first (log entry 7). -/
  host : List HostTurn
  /-- R7: the parameters (log entry 1). -/
  params : Params
  deriving DecidableEq, Repr

/-- What a step answers. -/
abbrev Result := Host.Outcome State Fault Refusal

/-- R153, R154: the clear display. -/
def darkScreen : Screen := Vector.replicate 32 (Vector.replicate 64 false)

/-- R41: the state after `load` of an empty ROM and `run` (R200, R203). The values the spec leaves open are named in log
entries 1, 2, 3, 9, 10. -/
def State.reset : State where
  v := Vector.replicate 16 0
  i := 0
  pc := 512
  dt := 0
  st := 0
  sp := 0
  stack := Vector.replicate 16 0
  heap := []
  psc := 0
  run := .running
  dl := 0
  now := 0
  fb := darkScreen
  keys := Vector.replicate 16 false
  keyReport := none
  resetSignal := false
  powerOffSignal := false
  buzzing := false
  calls := [.buzReset, .kbdReset, .dispReset]
  rngCount := 0
  resetCount := 0
  host := []
  params := Config.defaultParams

end Sys2Proof.Machine
end

