-- ==== Sys2Proof/Machine/Ops.lean ====
section
/-! DEFINITION. The named operations over registers, the heap, the return-address stack and the device log
(20_memory.md R50 to R58, 00_scope.md R10), and raising a fault (60_exceptions.md R173). -/

namespace Sys2Proof.Machine

/-! ## Faults -/

/-- R173: raising a fatal fault. `RUN` becomes `Faulted(f)`, nothing is saved and nothing follows, so the step's outcome
is the fault itself (log entry 5). -/
def raise (f : Fault) : Result := .fault f

/-- The outcome of an operation that may raise a fault. -/
def finish : Except Fault State → Result
  | .ok s => .next s
  | .error f => raise f

/-! ## Registers -/

/-- R10, R20: `V[x]`. -/
def State.reg (s : State) (x : Reg) : Byte := s.v.get x

/-- R10, R20: `V[x] <- b`. No register is hardwired. -/
def State.setReg (s : State) (x : Reg) (b : Byte) : State := { s with v := s.v.set x.val b x.isLt }

/-- R24: `I <- w`. -/
def State.setI (s : State) (w : Word) : State := { s with i := w }

/-- R25: `PC <- w`. -/
def State.setPc (s : State) (w : Word) : State := { s with pc := w }

/-- R26 step 3 and R100: `PC <- PC + 2`. -/
def State.advance (s : State) : State := { s with pc := s.pc + 2 }

/-- R100: the skip, when its condition holds. -/
def State.skipIf (s : State) (c : Bool) : State := if c then s.advance else s

/-! ## The heap -/

/-- R61: what a heap byte holds when nothing has written it since the reset cleared the heap: the font at 0 to 79, zero
elsewhere (log entry 15). -/
def unlistedByte (font : Font) (a : Nat) : Byte := if h : a < fontSize then font.get ⟨a, h⟩ else 0

/-- The byte at an address. -/
def Memory.read (font : Font) : Memory → Nat → Byte
  | [], a => unlistedByte font a
  | (k, b) :: m, a => if k = a then b else Memory.read font m a

/-- The heap with a byte written, in canonical form. -/
def Memory.write (font : Font) : Memory → Nat → Byte → Memory
  | [], a, b => if b = unlistedByte font a then [] else [(a, b)]
  | (k, c) :: m, a, b =>
    if a < k then (if b = unlistedByte font a then (k, c) :: m else (a, b) :: (k, c) :: m)
    else if a = k then (if b = unlistedByte font a then m else (a, b) :: m)
    else (k, c) :: Memory.write font m a b

/-- R53: `HEAP[addr+i] <- v[i]`, lowest address first. -/
def Memory.writeList (font : Font) : Memory → Nat → List Byte → Memory
  | m, _, [] => m
  | m, a, b :: bs => Memory.writeList font (Memory.write font m a b) (a + 1) bs

/-- The cells from a lower bound up: rising addresses below the heap's end, none equal to an unlisted byte. -/
def Memory.wfFrom (font : Font) : Nat → Memory → Bool
  | _, [] => true
  | low, (k, b) :: m =>
    decide (low ≤ k) && decide (k < heapSize) && decide (b ≠ unlistedByte font k) && Memory.wfFrom font (k + 1) m

/-- The canonical form: addresses strictly rising and below 4096, no entry equal to what an unlisted address reads as. -/
def Memory.wf (font : Font) (m : Memory) : Bool := Memory.wfFrom font 0 m

/-- The heap byte at an address of the heap. -/
def State.byteAt (s : State) (a : Nat) : Byte := Memory.read s.params.font s.heap a

/-- R51: an access of `len` bytes at `addr` is in bounds; unbounded integers, no wrap. -/
def inBounds (addr len : Nat) : Bool := decide (addr + len ≤ heapSize)

/-- R52: `MemRead(addr, n)`. -/
def memRead (s : State) (addr n : Nat) : Except Fault (List Byte) :=
  if inBounds addr n then .ok ((List.range n).map (fun j => s.byteAt (addr + j)))
  else .error (.outOfBounds addr n)

/-- R53: `MemWrite(addr, n, v)`, `n` the length of `v`; the bound is tested on the whole range first. -/
def memWrite (s : State) (addr : Nat) (bytes : List Byte) : Except Fault State :=
  if inBounds addr bytes.length then .ok { s with heap := Memory.writeList s.params.font s.heap addr bytes }
  else .error (.outOfBounds addr bytes.length)

/-! ## The return-address stack -/

/-- R57: `Push(v)`. -/
def push (s : State) (w : Word) : Except Fault State :=
  if h : s.sp.val < 16 then
    .ok { s with stack := s.stack.set s.sp.val w h, sp := ⟨s.sp.val + 1, Nat.succ_lt_succ h⟩ }
  else .error .stackOverflow

/-- R58: `Pop()`: the value and the state with `SP` one lower. The entry is not cleared. -/
def pop (s : State) : Except Fault (Word × State) :=
  if h : s.sp.val = 0 then .error .stackUnderflow
  else .ok (s.stack.get ⟨s.sp.val - 1, by have := s.sp.isLt; omega⟩,
    { s with sp := ⟨s.sp.val - 1, by have := s.sp.isLt; omega⟩ })

/-! ## Device calls -/

/-- R10, R67: `emit DEV.op(args)`: the call is made, in program order. -/
def State.emit (s : State) (c : DeviceCall) : State := { s with calls := c :: s.calls }

end Sys2Proof.Machine
end

