-- ==== Sys2Proof/Machine/Flags.lean ====
section
/-! DEFINITION. The flag `VF` = `V[15]` and the five conditions the arithmetic instructions write to it (10_state.md
R22, R23); the sixth, DRW's collision, is the display's answer. -/

namespace Sys2Proof.Machine

/-- R22: the flag register. -/
abbrev VF : Reg := 15

/-- R23: a flag is exactly 0 or 1, in all 8 bits. -/
def flagByte (c : Bool) : Byte := if c then 1 else 0

/-- R22, R23: `V[15] <- c`. -/
def State.setFlag (s : State) (c : Bool) : State := s.setReg VF (flagByte c)

/-- R126: the carry out of bit 7. -/
def carryOut (a b : Byte) : Bool := decide (a.toNat + b.toNat > 255)

/-- R127, R129: strictly greater, unsigned. -/
def strictlyGreater (a b : Byte) : Bool := decide (a.toNat > b.toNat)

/-- R128: bit 0, the bit a right shift pushes out. -/
def lowBit (a : Byte) : Bool := decide (a.toNat % 2 = 1)

/-- R130: bit 7, the bit a left shift pushes out. -/
def highBit (a : Byte) : Bool := decide (a.toNat / 128 = 1)

end Sys2Proof.Machine
end

