-- ==== Sys2Proof/Machine/Alu.lean ====
section
/-! DEFINITION. Register moves, arithmetic, logic, shifts and random bytes (41_alu.md). Statements run in the order the
rules write them and each reads the registers as the earlier ones left them (R10, R133). -/

namespace Sys2Proof.Machine

/-- R120: LD_IMM, `V[x] <- kk`. -/
def execLdImm (x : Reg) (kk : Byte) (s : State) : Result := .next (s.setReg x kk)

/-- R121: ADD_IMM, `V[x] <- (V[x] + kk) mod 256`; no flag. -/
def execAddImm (x : Reg) (kk : Byte) (s : State) : Result := .next (s.setReg x (s.reg x + kk))

/-- R122: LD_REG, `V[x] <- V[y]`. -/
def execLdReg (x y : Reg) (s : State) : Result := .next (s.setReg x (s.reg y))

/-- R123: OR. -/
def execOr (x y : Reg) (s : State) : Result := .next (s.setReg x (s.reg x ||| s.reg y))

/-- R124: AND. -/
def execAnd (x y : Reg) (s : State) : Result := .next (s.setReg x (s.reg x &&& s.reg y))

/-- R125: XOR. -/
def execXor (x y : Reg) (s : State) : Result := .next (s.setReg x (s.reg x ^^^ s.reg y))

/-- R126: ADD_REG: the sum of both operands first, the result written, then the flag. -/
def execAddReg (x y : Reg) (s : State) : Result :=
  let a := s.reg x
  let b := s.reg y
  .next ((s.setReg x (a + b)).setFlag (carryOut a b))

/-- The second and third statements of R127 and R129, after the flag write: the underflow test under SUB_UNDERFLOW =
`fault` (R134), then `V[x] <- (minuend − subtrahend) mod 256`. -/
def subtractInto (x : Reg) (minuend subtrahend : Byte) (s : State) : Result :=
  if strictlyGreater subtrahend minuend && decide (s.params.subUnderflow = .fault) then raise .arithmeticUnderflow
  else .next (s.setReg x (minuend - subtrahend))

/-- R127: SUB: the flag `V[x] > V[y]` first, then the difference of the registers as the flag write left them. -/
def execSub (x y : Reg) (s : State) : Result :=
  let t := s.setFlag (strictlyGreater (s.reg x) (s.reg y))
  subtractInto x (t.reg x) (t.reg y) t

/-- R128: SHR: `V[15] <- V[x] & 1`, then `V[x] <- V[x] >> 1`; `y` is ignored. -/
def execShr (x _y : Reg) (s : State) : Result :=
  let t := s.setFlag (lowBit (s.reg x))
  .next (t.setReg x (t.reg x >>> 1))

/-- R129: SUBN: the flag `V[y] > V[x]` first, then the difference of the registers as the flag write left them. -/
def execSubn (x y : Reg) (s : State) : Result :=
  let t := s.setFlag (strictlyGreater (s.reg y) (s.reg x))
  subtractInto x (t.reg y) (t.reg x) t

/-- R130: SHL: `V[15] <- V[x] >> 7`, then `V[x] <- (V[x] << 1) mod 256`; `y` is ignored. -/
def execShl (x _y : Reg) (s : State) : Result :=
  let t := s.setFlag (highBit (s.reg x))
  .next (t.setReg x (t.reg x <<< 1))

/-- R131, R187: `RNG.next()`: the next free byte (log entry 4), and the state in which it has been asked for. -/
def nextRandom (s : State) : Byte × State :=
  (Config.randomByte s.rngCount, { s.emit .rngNext with rngCount := s.rngCount + 1 })

/-- R131: RND: `r <- RNG.next(); V[x] <- r & kk`, one byte asked for whatever `kk` is. -/
def execRnd (x : Reg) (kk : Byte) (s : State) : Result :=
  let r := nextRandom s
  .next (r.2.setReg x (r.1 &&& kk))

end Sys2Proof.Machine
end

