-- ==== Sys2Proof/Machine/Operands.lean ====
section
/-! DEFINITION. How operands are assembled (30_encoding.md R83): nothing is sign-extended, scaled or shifted; and the
values instructions compute from them (41_alu.md R132, 42_index_memory.md R142 to R144). -/

namespace Sys2Proof.Machine

/-- R83: `zext_16(nnn)`. -/
def zextAddr (nnn : BitVec 12) : Word := BitVec.ofNat 16 nnn.toNat

/-- R83: `zext_16` of a byte. -/
def zextByte (b : Byte) : Word := BitVec.ofNat 16 b.toNat

/-- R144: the effective address of every data access is `I`, as an unbounded integer. -/
def State.address (s : State) : Nat := s.i.toNat

/-- R105: `V[0] + zext_16(nnn)`, at most 4350. -/
def State.offsetTarget (s : State) (nnn : BitVec 12) : Word := BitVec.ofNat 16 ((s.reg 0).toNat + nnn.toNat)

/-- R141: `(I + V[x]) mod 65536`. -/
def State.indexPlus (s : State) (b : Byte) : Word := BitVec.ofNat 16 ((s.i.toNat + b.toNat) % 65536)

/-- R142: `5 × V[x]`, the whole byte, at most 1275. -/
def glyphAddress (b : Byte) : Word := BitVec.ofNat 16 (5 * b.toNat)

/-- R143: the hundreds, tens and units digits. -/
def bcdDigits (b : Byte) : List Byte :=
  [BitVec.ofNat 8 (b.toNat / 100), BitVec.ofNat 8 (b.toNat / 10 % 10), BitVec.ofNat 8 (b.toNat % 10)]

/-- R166: the key a register names, when its value is 0 to 15. -/
def keyNumber (b : Byte) : Option (Fin 16) := if h : b.toNat < 16 then some ⟨b.toNat, h⟩ else none

end Sys2Proof.Machine
end

