-- ==== Sys2Proof/Machine/Control.lean ====
section
/-! DEFINITION. Control transfer and skips (40_control.md). `PC` already holds the instruction's address plus 2 (R26). -/

namespace Sys2Proof.Machine

/-- R101: SYS, no operation; `nnn` is ignored. -/
def execSys (_nnn : BitVec 12) (s : State) : Result := .next s

/-- R102: RET, `PC <- Pop()`. -/
def execRet (s : State) : Result :=
  match pop s with
  | .ok (w, t) => .next (t.setPc w)
  | .error f => raise f

/-- R103: JP, `PC <- zext_16(nnn)`. -/
def execJp (nnn : BitVec 12) (s : State) : Result := .next (s.setPc (zextAddr nnn))

/-- R104: CALL, `Push(PC); PC <- zext_16(nnn)`. -/
def execCall (nnn : BitVec 12) (s : State) : Result :=
  match push s s.pc with
  | .ok t => .next (t.setPc (zextAddr nnn))
  | .error f => raise f

/-- R105: JP_V0, `PC <- V[0] + zext_16(nnn)`. -/
def execJpV0 (nnn : BitVec 12) (s : State) : Result := .next (s.setPc (s.offsetTarget nnn))

/-- R106: SE_IMM, skip if `V[x] == kk`. -/
def execSeImm (x : Reg) (kk : Byte) (s : State) : Result := .next (s.skipIf (s.reg x == kk))

/-- R107: SNE_IMM, skip if `V[x] != kk`. -/
def execSneImm (x : Reg) (kk : Byte) (s : State) : Result := .next (s.skipIf (s.reg x != kk))

/-- R108: SE_REG, skip if `V[x] == V[y]`. -/
def execSeReg (x y : Reg) (s : State) : Result := .next (s.skipIf (s.reg x == s.reg y))

/-- R109: SNE_REG, skip if `V[x] != V[y]`. -/
def execSneReg (x y : Reg) (s : State) : Result := .next (s.skipIf (s.reg x != s.reg y))

end Sys2Proof.Machine
end

