-- ==== Sys2Proof/Machine/Display.lean ====
section
/-! DEFINITION. CLS and DRW, and the reference behaviour of the display device (43_display.md). -/

namespace Sys2Proof.Machine

/-- `FB[row][col]`. -/
def Screen.pixel (fb : Screen) (row : Fin 32) (col : Fin 64) : Bool := (fb.get row).get col

/-- `FB[row][col] <- b`. -/
def Screen.setPixel (fb : Screen) (row : Fin 32) (col : Fin 64) (b : Bool) : Screen :=
  fb.set row.val ((fb.get row).set col.val b col.isLt) row.isLt

/-- R155: `(s[r] >> (7 − k)) & 1`, the sprite bit in column `k`, 0 the leftmost. -/
def spriteBit (b : Byte) (k : Nat) : Bool := decide (b.toNat / 2 ^ (7 - k) % 2 = 1)

/-- R155: row and column coordinates wrap, `mod 32` and `mod 64`. -/
def wrapRow (n : Nat) : Fin 32 := ⟨n % 32, Nat.mod_lt _ (by decide)⟩

/-- See `wrapRow`. -/
def wrapCol (n : Nat) : Fin 64 := ⟨n % 64, Nat.mod_lt _ (by decide)⟩

/-- R155, the inner statements: collide where a set sprite bit meets a lit pixel, and XOR the bit onto the pixel. -/
def drawBit (row : Fin 32) (col : Fin 64) (bit : Bool) (d : Screen × Bool) : Screen × Bool :=
  let old := d.1.pixel row col
  (d.1.setPixel row col (old ^^ bit), d.2 || (bit && old))

/-- R155, the loop over `k`: one sprite byte from column `x0` of row `row`. -/
def drawByte (row : Fin 32) (x0 : Nat) (b : Byte) (d : Screen × Bool) : Screen × Bool :=
  (List.range 8).foldl (fun e k => drawBit row (wrapCol (x0 + k)) (spriteBit b k) e) d

/-- R155, the loop over `r`: each sprite byte one row lower than the one before. -/
def drawRows (x0 : Nat) : Nat → List Byte → Screen × Bool → Screen × Bool
  | _, [], d => d
  | y, b :: bs, d => drawRows x0 (y + 1) bs (drawByte (wrapRow y) x0 b d)

/-- R155: `DISP.draw(s, x0, y0)`: the new bit plane and the collision bit. -/
def Screen.draw (fb : Screen) (sprite : List Byte) (x0 y0 : Byte) : Screen × Bool :=
  drawRows x0.toNat y0.toNat sprite (fb, false)

/-- R154: the core calls `DISP.clear()`. -/
def State.clearDisplay (s : State) : State := { s.emit .dispClear with fb := darkScreen }

/-- R151, R155: the core calls `DISP.draw`; the state after the call and the collision bit it returns. -/
def drawSprite (s : State) (sprite : List Byte) (x0 y0 : Byte) : State × Bool :=
  let d := s.fb.draw sprite x0 y0
  ({ s.emit (.dispDraw sprite x0 y0) with fb := d.1 }, d.2)

/-- R150: CLS, `emit DISP.clear()`; no `present()`. -/
def execCls (s : State) : Result := .next s.clearDisplay

/-- R151: DRW: read `n` bytes at `I`, draw them at (`V[x]`, `V[y]`), write the collision to `VF`, present. -/
def execDrw (x y : Reg) (n : Fin 16) (s : State) : Result :=
  match memRead s s.address n.val with
  | .ok sprite =>
    let d := drawSprite s sprite (s.reg x) (s.reg y)
    .next ((d.1.setFlag d.2).emit .dispPresent)
  | .error f => raise f

end Sys2Proof.Machine
end

