-- ==== Sys2Proof/Machine/IndexMemory.lean ====
section
/-! DEFINITION. The index register and the loads and stores (42_index_memory.md). No access changes `I` (R144). -/

namespace Sys2Proof.Machine

/-- R140: LD_I, `I <- zext_16(nnn)`. -/
def execLdI (nnn : BitVec 12) (s : State) : Result := .next (s.setI (zextAddr nnn))

/-- R141: ADD_I, `I <- (I + V[x]) mod 65536`; no flag. -/
def execAddI (x : Reg) (s : State) : Result := .next (s.setI (s.indexPlus (s.reg x)))

/-- R142: LD_FONT, `I <- 5 × V[x]`. -/
def execLdFont (x : Reg) (s : State) : Result := .next (s.setI (glyphAddress (s.reg x)))

/-- R143: LD_BCD, the three decimal digits of `V[x]` to `I`, `I + 1`, `I + 2`. -/
def execLdBcd (x : Reg) (s : State) : Result := finish (memWrite s s.address (bcdDigits (s.reg x)))

/-- R145: ST_REGS, `HEAP[I + i] <- V[i]` for all 16 registers; `x` is ignored. -/
def execStRegs (_x : Reg) (s : State) : Result := finish (memWrite s s.address s.v.toList)

/-- R146: `V[i] <- b[i]` for `i = 0 .. 15`. -/
def State.setRegs (s : State) (b : List Byte) : State := { s with v := Vector.ofFn (fun j => b.getD j.val 0) }

/-- R146: LD_REGS, all 16 registers from the heap at `I`; `x` is ignored. -/
def execLdRegs (_x : Reg) (s : State) : Result :=
  match memRead s s.address 16 with
  | .ok b => .next (s.setRegs b)
  | .error f => raise f

end Sys2Proof.Machine
end

