-- ==== Sys2Proof/Machine/KeyTimer.lean ====
section
/-! DEFINITION. The keyboard and timer instructions (44_keyboard_timers.md), the key wait, and the tick
(60_exceptions.md R179 to R183). -/

namespace Sys2Proof.Machine

/-- R160, R161, R166: the key test of SKP and SKNP: a fault for a key number above 15 before the keyboard is called,
else one call of `KBD.pressed` and a skip when its answer is `wanted`. -/
def skipOnKey (wanted : Bool) (b : Byte) (s : State) : Result :=
  match keyNumber b with
  | none => raise (.badKeyIndex b)
  | some k => .next ((s.emit (.kbdPressed k)).skipIf (s.keys.get k == wanted))

/-- R160: SKP, skip if key `V[x]` is pressed. -/
def execSkp (x : Reg) (s : State) : Result := skipOnKey true (s.reg x) s

/-- R161: SKNP, skip if key `V[x]` is not pressed. -/
def execSknp (x : Reg) (s : State) : Result := skipOnKey false (s.reg x) s

/-- R37, R39, R193: what a turn of the host does to the keyboard and the clock. DESIGN CHOICE (log entry 9): a key
reported over one that no wait has taken yet replaces it. -/
def State.hostActs (s : State) : HostTurn → State
  | .setKeys pressed => { s with keys := pressed }
  | .reportKey key => { s with keyReport := some key }
  | .raiseReset => { s with resetSignal := true }
  | .raisePowerOff => { s with powerOffSignal := true }
  | .clock elapsed _ => { s with now := s.now + elapsed }

/-- R162: the key the keyboard has reported, if any, and the state in which the wait has taken it. -/
def State.takeReport (s : State) : Option (Fin 16 × State) :=
  match s.keyReport with
  | some k => some (k, { s with keyReport := none })
  | none => none

/-- R162, R222: `KBD.wait_key()`: the host's coming turns happen, one after the other and with no move of the engine
between them, until the keyboard has reported a key; none, when no turn reports one (log entry 8). -/
def awaitKey : List HostTurn → State → Option (Fin 16 × State)
  | [], s => s.takeReport
  | turn :: rest, s =>
    match s.takeReport with
    | some r => some r
    | none => awaitKey rest (({ s with host := rest } : State).hostActs turn)

/-- R162, R218: the wait for `V[x]` that began at `since` has brought key `k`: the register is written, and the time
waited is given back to the deadline. -/
def State.endWait (s : State) (x : Reg) (since : Nat) (k : Fin 16) : State :=
  { s.setReg x (BitVec.ofNat 8 k.val) with dl := s.dl + (s.now - since) }

/-- R162, R218: LD_KEY, `k <- KBD.wait_key(); V[x] <- k`. No successor while the host supplies no key. -/
def execLdKey (x : Reg) (s : State) : Result :=
  match awaitKey s.host (s.emit .kbdWaitKey) with
  | some (k, t) => .next (t.endWait x s.now k)
  | none => .refused .waitingForKey

/-- R163: LD_VX_DT, `V[x] <- DT`. -/
def execLdVxDt (x : Reg) (s : State) : Result := .next (s.setReg x s.dt)

/-- R164: LD_DT, `DT <- V[x]`. -/
def execLdDt (x : Reg) (s : State) : Result := .next { s with dt := s.reg x }

/-- R165, R186: `BUZ.start()`. -/
def State.startBuzzer (s : State) : State := { s.emit .buzStart with buzzing := true }

/-- R180, R186: `BUZ.stop()`. -/
def State.stopBuzzer (s : State) : State := { s.emit .buzStop with buzzing := false }

/-- R165: LD_ST, `ST <- V[x]`, and `BUZ.start()` when `ST` was 0 and `V[x]` is not. -/
def execLdSt (x : Reg) (s : State) : Result :=
  let t := { s with st := s.reg x }
  .next (if s.st = 0 ∧ s.reg x ≠ 0 then t.startBuzzer else t)

/-- R180: `DT` falls by one unless it is 0. -/
def State.tickDelay (s : State) : State := if s.dt ≠ 0 then { s with dt := s.dt - 1 } else s

/-- R180, R183: `ST` falls by one unless it is 0; `BUZ.stop()` when that takes it to 0. -/
def State.tickSound (s : State) : State :=
  if s.st ≠ 0 then
    let t := { s with st := s.st - 1 }
    if s.st = 1 then t.stopBuzzer else t
  else s

/-- R180: `Tick()`. -/
def State.tick (s : State) : State := s.tickDelay.tickSound

/-- R26 step 1, R33: tick when `PSC` is 0, then `PSC <- (PSC + 1) mod M`. -/
def State.prescale (s : State) : State :=
  let t := if s.psc = 0 then s.tick else s
  { t with psc := (s.psc + 1) % s.params.clockMultiplier }

end Sys2Proof.Machine
end

