-- ==== Sys2Proof/Machine/Engine.lean ====
section
/-! DEFINITION. Reset and load (70_reset_and_hazards.md R200 to R203) and the poll of the host signals
(60_exceptions.md R176 to R178). -/

namespace Sys2Proof.Machine

/-- R200: the heap after a reset: cleared, the font (which unlisted addresses read as), the ROM at the reset vector. -/
def resetHeap (p : Params) : Memory := Memory.writeList p.font [] resetVector p.rom

/-- R200, R202: `Reset()`. `PSC` becomes a free value in `[0, M)` (log entry 3). `KBD.reset()` leaves the key states and
the key reported to the host's turns; whether it keeps a pending signal is a free value (D27; log entry 9). -/
def State.resetEngine (s : State) : State :=
  { s with
    v := Vector.replicate 16 0
    i := 0
    dt := 0
    st := 0
    pc := BitVec.ofNat 16 resetVector
    sp := 0
    stack := Vector.replicate 16 0
    heap := resetHeap s.params
    fb := darkScreen
    buzzing := false
    calls := .buzReset :: .kbdReset :: .dispReset :: s.calls
    resetSignal := s.resetSignal && Config.keepsResetSignal s.resetCount
    powerOffSignal := s.powerOffSignal && Config.keepsPowerOffSignal s.resetCount
    psc := Config.prescalerPhase s.resetCount % s.params.clockMultiplier
    resetCount := s.resetCount + 1
    dl := s.now }

/-- R63, R200, R201, R203: the host's `load(rom)`, then `run`: a ROM that does not fit is refused before anything runs,
else the ROM is captured and the engine is reset. DESIGN CHOICE (log entry 13): `load` stands for the load and run of a
newly constructed engine with the devices of `s`, so it answers a running engine whatever `RUN` was in `s`; the spec does
not say what a load does to an engine that has halted or faulted (R34, R201). -/
def load (rom : List Byte) (s : State) : Result :=
  if rom.length ≤ maxRomLength then
    .next { ({ s with params := { s.params with rom := rom } } : State).resetEngine with run := .running }
  else raise (.outOfBounds resetVector rom.length)

/-- R177: one poll. Power-off is read first; when it is set the reset signal is not read and stays pending. Reading a
signal clears it. -/
def State.poll (s : State) : State :=
  let p := s.emit .kbdPowerOffSignal
  if s.powerOffSignal then { p with powerOffSignal := false, run := .halted }
  else
    let q := p.emit .kbdResetSignal
    if s.resetSignal then ({ q with resetSignal := false } : State).resetEngine else q

end Sys2Proof.Machine
end

