-- ==== Sys2Proof/Machine/Cycle.lean ====
section
/-! DEFINITION. The cycle (10_state.md R26), the pacing loop around it (70_reset_and_hazards.md R215 to R222) and the
turns of the host (60_exceptions.md R193). -/

namespace Sys2Proof.Machine

/-- R54: `Fetch(PC)`: the big-endian word at `PC`; the one place where the bound of `PC` is tested. -/
def fetch (s : State) : Except Fault Word :=
  if inBounds s.pc.toNat 2 then .ok (wordOfBytes (s.byteAt s.pc.toNat) (s.byteAt (s.pc.toNat + 1)))
  else .error (.outOfBounds s.pc.toNat 2)

/-- R26: one cycle: the timer step, the fetch, the advance, the decoder, the instruction. -/
def cycle (s : State) : Result :=
  match fetch s.prescale with
  | .error f => raise f
  | .ok w =>
    match decode w with
    | .error _ => raise (.invalidInstruction w)
    | .ok i => exec i s.prescale.advance

/-- R216: after a cycle the deadline advances by the period, from its old value. -/
def State.endCycle (s : State) : State := { s with dl := s.dl + s.params.cyclePeriod }

/-- The outcome of a cycle, with the deadline advanced. -/
def closeCycle : Result → Result
  | .next s => .next s.endCycle
  | .fault f => .fault f
  | .refused r => .refused r

/-- R216: one iteration of the pacing loop, at the time the clock answers: a cycle when the deadline has come, else a
sleep of at least 1 ms (R217) and a poll. -/
def loopTurn (time sleep : Nat) (s : State) : Result :=
  if s.dl ≤ time then closeCycle (cycle { s with now := time })
  else .next ({ s with now := time + max sleep s.params.oneMillisecond } : State).poll

/-- R68, R193: a turn of the environment between cycles: the host acts, or the clock answers the loop and the engine
moves. A reported key waits for the next LD_KEY, and a later one replaces it: DESIGN CHOICE (log entry 9). -/
def takeTurn (h : HostTurn) (s : State) : Result :=
  match h with
  | .setKeys pressed => .next (s.hostActs (.setKeys pressed))
  | .reportKey key => .next (s.hostActs (.reportKey key))
  | .raiseReset => .next (s.hostActs .raiseReset)
  | .raisePowerOff => .next (s.hostActs .raisePowerOff)
  | .clock elapsed sleep => loopTurn (s.now + elapsed) sleep s

/-- A step of a running machine: the next turn of the environment. When the host has nothing more to do, time passes up
to the deadline and a cycle runs (log entry 7). -/
def runningStep (s : State) : Result :=
  match s.host with
  | [] => loopTurn (max s.now s.dl) 0 s
  | h :: rest => takeTurn h { s with host := rest }

/-- R34, R173, R178: `Halted` and `Faulted` are terminal. -/
def engineStep (s : State) : Result :=
  match s.run with
  | .running => runningStep s
  | .halted => .refused .halted
  | .faulted f => raise f

/-- A word stored where the next fetch reads, when it fits in the heap. -/
def State.placeWord (s : State) (w : Word) : State :=
  match memWrite s s.pc.toNat (bytesOfWord w) with
  | .ok t => t
  | .error _ => s

/-- The machine running, with its next cycle due at the clock's next answer (log entry 13). -/
def State.readyToFetch (s : State) : State :=
  { s with run := .running, host := .clock (s.dl - s.now) 0 :: s.host }

end Sys2Proof.Machine
end

