-- ==== Sys2Proof/Machine/Step.lean ====
section
/-! DEFINITION. The step of the machine, and the state with an instruction placed for its next fetch. -/

namespace Sys2Proof.Machine

/-- One step: a turn of the environment or of the engine (R26, R177, R216). -/
def step (s : State) : Host.Outcome State Fault Refusal := engineStep s

/-- The state with the instruction of a table word stored where the next step fetches it (log entry 13). -/
def State.withFetchWord (s : State) (nbits w : Nat) : State := s.readyToFetch.placeWord (tableWord nbits w)

end Sys2Proof.Machine
end

