-- ==== Sys2Proof/Safety.lean ====
section
/-! DEFINITION. The invariant of the machine, and the words statements use for what a step leaves unchanged. -/

namespace Sys2Proof.Machine

/-- What holds of every state a run reaches: the parameters meet R7 and R63; the heap is in canonical form, inside its
4096 bytes (R50); `PSC` is in `[0, M)` (R33); `PC` is at most 4350 and every stack entry at most 4096 (R28). `SP` is 0 to 16 (R31) by its type. -/
abbrev State.Inv (s : State) : Prop :=
  s.params.wf = true ∧ Memory.wf s.params.font s.heap = true ∧ s.psc < s.params.clockMultiplier ∧
  s.pc.toNat ≤ 4350 ∧ (∀ k : Fin 16, (s.stack.get k).toNat ≤ 4096)

/-- Every heap byte reads as before. -/
def State.SameHeap (s t : State) : Prop := ∀ a, t.byteAt a = s.byteAt a

/-- Every heap byte outside `[addr, addr + len)` reads as before. -/
def State.SameHeapOutside (addr len : Nat) (s t : State) : Prop :=
  ∀ a, a < addr ∨ addr + len ≤ a → t.byteAt a = s.byteAt a

/-- Nothing but general registers differs. -/
def State.OnlyRegs (s t : State) : Prop := t = { s with v := t.v } ∧ State.SameHeap s t

/-- Nothing but `PC` differs. -/
def State.OnlyPc (s t : State) : Prop := t = { s with pc := t.pc } ∧ State.SameHeap s t

/-- Nothing but `I` differs. -/
def State.OnlyI (s t : State) : Prop := t = { s with i := t.i } ∧ State.SameHeap s t

/-- Nothing but the heap differs, and of the heap only `[addr, addr + len)`. -/
def State.OnlyHeap (addr len : Nat) (s t : State) : Prop :=
  t = { s with heap := t.heap } ∧ State.SameHeapOutside addr len s t

/-- The instruction completes, register `r` then holds `f r`, and nothing but general registers has changed. -/
def WritesRegs (i : Instr) (s : State) (f : Reg → Byte) : Prop :=
  ∃ t, exec i s = .next t ∧ (∀ r, t.reg r = f r) ∧ State.OnlyRegs s t

/-- The instruction completes, `PC` then holds `p`, and nothing but `PC` has changed. -/
def WritesPc (i : Instr) (s : State) (p : Word) : Prop :=
  ∃ t, exec i s = .next t ∧ t.pc = p ∧ State.OnlyPc s t

/-- The instruction completes, `I` then holds `w`, and nothing but `I` has changed. -/
def WritesIndex (i : Instr) (s : State) (w : Word) : Prop :=
  ∃ t, exec i s = .next t ∧ t.i = w ∧ State.OnlyI s t

/-- R23: a flag's byte. -/
def bitByte (c : Bool) : Byte := if c then 1 else 0

/-- R133: an operand of SUB and SUBN as the flag write left it: the new flag `g` for register 15, else the register. -/
def State.operandAfterFlag (s : State) (g : Bool) (r : Reg) : Byte := if r = 15 then bitByte g else s.reg r

/-- R52: the `n` heap bytes from `addr` up. -/
def State.bytesFrom (s : State) (addr n : Nat) : List Byte := (List.range n).map (fun j => s.byteAt (addr + j))

/-- R155, read per pixel: the sprite drawn at (`x0`, `y0`) has a set bit on this pixel. -/
def coversPixel (sprite : List Byte) (x0 y0 : Byte) (row : Fin 32) (col : Fin 64) : Bool :=
  let r := (row.val + 32 - y0.toNat % 32) % 32
  let k := (col.val + 64 - x0.toNat % 64) % 64
  decide (r < sprite.length) && decide (k < 8) && decide ((sprite.getD r 0).toNat / 2 ^ (7 - k) % 2 = 1)

/-- The illegal words, as R87's table lists them by class. -/
def IllegalWord (w : Word) : Prop :=
  (fieldC w = 0x5 ∧ slice w 3 0 ≠ 0) ∨
  (fieldC w = 0x8 ∧ slice w 3 0 ∈ [0x8, 0x9, 0xA, 0xB, 0xC, 0xD, 0xF]) ∨
  (fieldC w = 0x9 ∧ slice w 3 0 ≠ 0) ∨
  (fieldC w = 0xE ∧ slice w 7 0 ∉ [0x9E, 0xA1]) ∨
  (fieldC w = 0xF ∧ slice w 7 0 ∉ [0x07, 0x0A, 0x15, 0x18, 0x1E, 0x29, 0x33, 0x55, 0x65])

/-- R218: the time that passes in a list of the host's turns. -/
def elapsedIn : List HostTurn → Nat
  | [] => 0
  | .clock elapsed _ :: rest => elapsed + elapsedIn rest
  | .setKeys _ :: rest => elapsedIn rest
  | .reportKey _ :: rest => elapsedIn rest
  | .raiseReset :: rest => elapsedIn rest
  | .raisePowerOff :: rest => elapsedIn rest

/-- R39: the key states after a list of the host's turns: the last ones set. -/
def keysAfter (keys : Vector Bool 16) : List HostTurn → Vector Bool 16
  | [] => keys
  | .setKeys pressed :: rest => keysAfter pressed rest
  | .reportKey _ :: rest => keysAfter keys rest
  | .raiseReset :: rest => keysAfter keys rest
  | .raisePowerOff :: rest => keysAfter keys rest
  | .clock _ _ :: rest => keysAfter keys rest

/-- The engine's next move runs a cycle at time `time`: either the host has nothing more to do (DESIGN CHOICE, log entry 7),
or the clock's next answer reaches the deadline (R216). -/
def State.CycleDue (s : State) (time : Nat) (rest : List HostTurn) : Prop :=
  s.run = .running ∧
  ((s.host = [] ∧ rest = [] ∧ time = max s.now s.dl) ∨
   (∃ elapsed sleep, s.host = .clock elapsed sleep :: rest ∧ time = s.now + elapsed ∧ s.dl ≤ time))

end Sys2Proof.Machine
end

