-- ==== Sys2Proof/Certificates/Slice0/Obligations.lean ====
section
/-! DEFINITION. The statements for the provers, from the rules of spec/. -/

open Sys2Proof Sys2Proof.Machine

/-! ## Encoding -/

/-- 30_encoding.md R81, R82, R85, R86: decoding the word of a well-formed instruction gives it back, with every operand
at every value the encoding admits. -/
def Obligations.DecodeOfEncodeIsIdentity : Prop :=
  ∀ i : Instr, WellFormed i = true → decode (encode i) = .ok i

/-- 30_encoding.md R85 to R88: a word that decodes decodes to a well-formed instruction whose word it is: no bit of a
legal word is dropped, ignored fields included. -/
def Obligations.EncodeOfDecodeIsIdentity : Prop :=
  ∀ (w : Word) (i : Instr), decode w = .ok i → WellFormed i = true ∧ encode i = w

/-- 30_encoding.md R87: the decoder refuses exactly the words of R87's table, and names the word. The rows for classes 5
and 9 are the spec's decision D5. -/
def Obligations.IllegalWordsAreTheTables : Prop :=
  ∀ w : Word, (IllegalWord w → decode w = .error (.illegal w)) ∧
    (¬ IllegalWord w → ∃ i, decode w = .ok i)

/-- 95_test_vectors.md 2.1: words of the spec and the instructions they select, and two words it calls illegal, refused by
name. That 0x5121 is illegal is the spec's decision D5 (log entry 12). -/
def Obligations.SpecWordsDecode : Prop :=
  decode 0xD12F#16 = .ok (.drw 1 2 15) ∧ decode 0x8AB4#16 = .ok (.addReg 10 11) ∧
  decode 0x00E0#16 = .ok .cls ∧ decode 0x00EE#16 = .ok .ret ∧ decode 0x00E1#16 = .ok (.sys 0x0E1#12) ∧
  decode 0x10E0#16 = .ok (.jp 0x0E0#12) ∧ decode 0x812E#16 = .ok (.shl 1 2) ∧
  decode 0xEFA1#16 = .ok (.sknp 15) ∧ decode 0xFA65#16 = .ok (.ldRegs 10) ∧ decode 0xF01E#16 = .ok (.addI 0) ∧
  decode 0x5121#16 = .error (.illegal 0x5121#16) ∧ decode 0xFFFF#16 = .error (.illegal 0xFFFF#16)

/-! ## Register, arithmetic, logic, shift, random -/

/-- R120, R122 to R125: LD_IMM, LD_REG, OR, AND and XOR: their encodings, what `V[x]` becomes, and that nothing else
changes (no flag, no fault of their own), for every `x` and `y`, 15 included. -/
def Obligations.LoadAndLogicResult : Prop :=
  ∀ (s : State) (x y : Reg) (kk : Byte),
    decode (BitVec.ofNat 16 (0x6000 + x.val * 256 + kk.toNat)) = .ok (.ldImm x kk) ∧
    WritesRegs (.ldImm x kk) s (fun r => if r = x then kk else s.reg r) ∧
    decode (BitVec.ofNat 16 (0x8000 + x.val * 256 + y.val * 16)) = .ok (.ldReg x y) ∧
    WritesRegs (.ldReg x y) s (fun r => if r = x then s.reg y else s.reg r) ∧
    decode (BitVec.ofNat 16 (0x8001 + x.val * 256 + y.val * 16)) = .ok (.orReg x y) ∧
    WritesRegs (.orReg x y) s (fun r => if r = x then s.reg x ||| s.reg y else s.reg r) ∧
    decode (BitVec.ofNat 16 (0x8002 + x.val * 256 + y.val * 16)) = .ok (.andReg x y) ∧
    WritesRegs (.andReg x y) s (fun r => if r = x then s.reg x &&& s.reg y else s.reg r) ∧
    decode (BitVec.ofNat 16 (0x8003 + x.val * 256 + y.val * 16)) = .ok (.xorReg x y) ∧
    WritesRegs (.xorReg x y) s (fun r => if r = x then s.reg x ^^^ s.reg y else s.reg r)

/-- R121: ADD_IMM wraps modulo 256 and writes no flag: register 15 keeps its value unless it is the destination (C9). -/
def Obligations.AddImmediateResult : Prop :=
  ∀ (s : State) (x : Reg) (kk : Byte),
    WritesRegs (.addImm x kk) s
      (fun r => if r = x then BitVec.ofNat 8 (((s.reg x).toNat + kk.toNat) % 256) else s.reg r)

/-- R126: ADD_REG: the sum modulo 256, then the carry; the flag is written last, so it stands when `x` is 15 (the order is
the spec's decision D9). -/
def Obligations.AddRegResult : Prop :=
  ∀ (s : State) (x y : Reg),
    WritesRegs (.addReg x y) s (fun r =>
      if r = 15 then bitByte (decide ((s.reg x).toNat + (s.reg y).toNat > 255))
      else if r = x then BitVec.ofNat 8 (((s.reg x).toNat + (s.reg y).toNat) % 256)
      else s.reg r)

/-- R127: SUB, where it does not stop (the policy is `wrap`, or the subtraction does not underflow): `VF` is the strict
comparison, `V[x]` the difference modulo 256 of the registers as the flag write left them. The order is the spec's
decision D9, the wrap its decision D2. -/
def Obligations.SubResult : Prop :=
  ∀ (s : State) (x y : Reg) (g : Bool) (a b : Byte),
    g = decide ((s.reg x).toNat > (s.reg y).toNat) → a = s.operandAfterFlag g x → b = s.operandAfterFlag g y →
    (s.params.subUnderflow = .wrap ∨ b.toNat ≤ a.toNat) →
    WritesRegs (.sub x y) s (fun r =>
      if r = x then BitVec.ofNat 8 ((256 + a.toNat - b.toNat) % 256)
      else if r = 15 then bitByte g else s.reg r)

/-- R129: SUBN, as SUB with minuend and subtrahend exchanged (decisions D2, D9). -/
def Obligations.SubnResult : Prop :=
  ∀ (s : State) (x y : Reg) (g : Bool) (a b : Byte),
    g = decide ((s.reg y).toNat > (s.reg x).toNat) → a = s.operandAfterFlag g x → b = s.operandAfterFlag g y →
    (s.params.subUnderflow = .wrap ∨ a.toNat ≤ b.toNat) →
    WritesRegs (.subn x y) s (fun r =>
      if r = x then BitVec.ofNat 8 ((256 + b.toNat - a.toNat) % 256)
      else if r = 15 then bitByte g else s.reg r)

/-- R127, R129, R134, R174: under SUB_UNDERFLOW = `fault`, SUB and SUBN stop exactly when the subtrahend, as the flag
write left it, is larger than the minuend (decisions D2, D9). -/
def Obligations.SubUnderflowStops : Prop :=
  ∀ (s : State) (x y : Reg), s.params.subUnderflow = .fault →
    (∀ g, g = decide ((s.reg x).toNat > (s.reg y).toNat) →
      ((s.operandAfterFlag g y).toNat > (s.operandAfterFlag g x).toNat ↔
        exec (.sub x y) s = .fault .arithmeticUnderflow)) ∧
    (∀ g, g = decide ((s.reg y).toNat > (s.reg x).toNat) →
      ((s.operandAfterFlag g x).toNat > (s.operandAfterFlag g y).toNat ↔
        exec (.subn x y) s = .fault .arithmeticUnderflow))

/-- R128, R130: SHR and SHL: the bit shifted out to `VF` first, then the shift of `V[x]` as the flag write left it (the
order is the spec's decision D9). -/
def Obligations.ShiftResult : Prop :=
  ∀ (s : State) (x y : Reg),
    (∀ g, g = decide ((s.reg x).toNat % 2 = 1) →
      WritesRegs (.shr x y) s (fun r =>
        if r = x then BitVec.ofNat 8 ((s.operandAfterFlag g x).toNat / 2)
        else if r = 15 then bitByte g else s.reg r)) ∧
    (∀ g, g = decide ((s.reg x).toNat / 128 = 1) →
      WritesRegs (.shl x y) s (fun r =>
        if r = x then BitVec.ofNat 8 ((s.operandAfterFlag g x).toNat * 2 % 256)
        else if r = 15 then bitByte g else s.reg r))

/-- R210: SHR and SHL shift `V[x]` in place, whatever `V[y]` holds and whichever register `y` is. -/
def Obligations.ShiftsInPlaceIgnoreVy : Prop :=
  ∀ (s : State) (x y y' : Reg), exec (.shr x y) s = exec (.shr x y') s ∧ exec (.shl x y) s = exec (.shl x y') s ∧
    ∃ t u, exec (.shr x y) s = .next t ∧ exec (.shl x y) s = .next u ∧
      (x ≠ 15 → t.reg x = s.reg x >>> 1 ∧ u.reg x = s.reg x <<< 1) ∧
      (y ≠ x → y ≠ 15 → t.reg y = s.reg y ∧ u.reg y = s.reg y) ∧
      (x ≠ 15 → ∀ (b : Byte) (s' t' u' : State), y ≠ x → s' = s.setReg y b → exec (.shr x y) s' = .next t' →
        exec (.shl x y) s' = .next u' → t'.reg x = t.reg x ∧ u'.reg x = u.reg x)

/-- R133: the table of what happens when an operand register is `VF`, under the default policy. It rests on the spec's
decisions D2 and D9. -/
def Obligations.FlagAsOperandTable : Prop :=
  ∀ (s : State) (z : Reg) (f a : Byte), s.params.subUnderflow = .wrap → z ≠ 15 → f = s.reg 15 → a = s.reg z →
    -- x = 15: `a` is V[y]
    WritesRegs (.addReg 15 z) s (fun r => if r = 15 then bitByte (decide (f.toNat + a.toNat > 255)) else s.reg r) ∧
    WritesRegs (.sub 15 z) s (fun r => if r = 15 then bitByte (decide (f.toNat > a.toNat)) - a else s.reg r) ∧
    WritesRegs (.subn 15 z) s (fun r => if r = 15 then a - bitByte (decide (a.toNat > f.toNat)) else s.reg r) ∧
    WritesRegs (.shr 15 z) s (fun r => if r = 15 then 0 else s.reg r) ∧
    WritesRegs (.shl 15 z) s (fun r => if r = 15 then (if f.toNat ≥ 128 then 2 else 0) else s.reg r) ∧
    -- y = 15: `a` is V[x]
    WritesRegs (.addReg z 15) s (fun r => if r = 15 then bitByte (decide (a.toNat + f.toNat > 255))
      else if r = z then a + f else s.reg r) ∧
    WritesRegs (.sub z 15) s (fun r => if r = 15 then bitByte (decide (a.toNat > f.toNat))
      else if r = z then a - bitByte (decide (a.toNat > f.toNat)) else s.reg r) ∧
    WritesRegs (.subn z 15) s (fun r => if r = 15 then bitByte (decide (f.toNat > a.toNat))
      else if r = z then bitByte (decide (f.toNat > a.toNat)) - a else s.reg r) ∧
    -- x = y = 15
    WritesRegs (.addReg 15 15) s (fun r => if r = 15 then bitByte (decide (2 * f.toNat > 255)) else s.reg r) ∧
    WritesRegs (.sub 15 15) s (fun r => if r = 15 then 0 else s.reg r) ∧
    WritesRegs (.subn 15 15) s (fun r => if r = 15 then 0 else s.reg r) ∧
    WritesRegs (.shr 15 15) s (fun r => if r = 15 then 0 else s.reg r) ∧
    WritesRegs (.shl 15 15) s (fun r => if r = 15 then (if f.toNat ≥ 128 then 2 else 0) else s.reg r)

/-- R131: RND asks for exactly one byte, whatever `kk` is, and `V[x]` becomes it masked, so that no bit outside `kk` is
set. The byte is the free value of log entry 4. -/
def Obligations.RndResult : Prop :=
  ∀ (s : State) (x : Reg) (kk : Byte), ∃ t, exec (.rnd x kk) s = .next t ∧
    t.reg x = Config.randomByte s.rngCount &&& kk ∧ t.reg x &&& ~~~kk = 0 ∧ (∀ r, r ≠ x → t.reg r = s.reg r) ∧
    t.rngCount = s.rngCount + 1 ∧ t.calls = .rngNext :: s.calls ∧
    t = { s with v := t.v, rngCount := t.rngCount, calls := t.calls } ∧ State.SameHeap s t

/-! ## Control transfer and skips -/

/-- R101: SYS changes nothing: its whole effect is the cycle's advance. -/
def Obligations.SysDoesNothing : Prop :=
  ∀ (s : State) (nnn : BitVec 12), WellFormed (.sys nnn) = true → exec (.sys nnn) s = .next s

/-- R103, R105: JP and JP_V0: `PC` becomes `nnn`, and `V[0] + nnn` not reduced to 12 bits. -/
def Obligations.JumpResult : Prop :=
  ∀ (s : State) (nnn : BitVec 12),
    (∃ t, exec (.jp nnn) s = .next t ∧ t.pc.toNat = nnn.toNat ∧ State.OnlyPc s t) ∧
    (∃ t, exec (.jpV0 nnn) s = .next t ∧ t.pc.toNat = (s.reg 0).toNat + nnn.toNat ∧ State.OnlyPc s t)

/-- R104, R57: CALL with room on the stack: the advanced `PC` is pushed, `PC` becomes `nnn`. -/
def Obligations.CallResult : Prop :=
  ∀ (s : State) (nnn : BitVec 12), s.sp.val < 16 →
    ∃ t, exec (.call nnn) s = .next t ∧ t.pc.toNat = nnn.toNat ∧ t.sp.val = s.sp.val + 1 ∧
      (∀ k : Fin 16, t.stack.get k = if k.val = s.sp.val then s.pc else s.stack.get k) ∧
      t = { s with pc := t.pc, sp := t.sp, stack := t.stack } ∧ State.SameHeap s t

/-- R102, R58: RET with an entry on the stack: `PC` becomes the top entry, `SP` is one lower, the entry stays. -/
def Obligations.RetResult : Prop :=
  ∀ (s : State) (k : Fin 16), s.sp.val = k.val + 1 →
    ∃ t, exec .ret s = .next t ∧ t.pc = s.stack.get k ∧ t.sp.val = k.val ∧
      t = { s with pc := t.pc, sp := t.sp } ∧ State.SameHeap s t

/-- R57, R58, R102, R104, R172: CALL at `SP` = 16 and RET at `SP` = 0 stop. The faults are the spec's decision D4. -/
def Obligations.StackLimitsStop : Prop :=
  ∀ (s : State) (nnn : BitVec 12),
    (s.sp.val = 16 → exec (.call nnn) s = .fault .stackOverflow) ∧
    (s.sp.val = 0 → exec .ret s = .fault .stackUnderflow)

/-- R58 (the source's law): a RET after a CALL, the stack untouched between them, returns to the instruction after the
CALL and restores `SP`. -/
def Obligations.CallThenRetReturns : Prop :=
  ∀ (s : State) (nnn : BitVec 12), s.sp.val < 16 →
    ∃ t, exec (.call nnn) s = .next t ∧
      ∀ u : State, u.sp = t.sp → u.stack = t.stack →
        ∃ w, exec .ret u = .next w ∧ w.pc = s.pc ∧ w.sp = s.sp

/-- R106, R107, R100: SE_IMM and SNE_IMM: their encodings, and that they add 2 to `PC` exactly when the condition holds
and change nothing else. -/
def Obligations.SkipOnImmediate : Prop :=
  ∀ (s : State) (x : Reg) (kk : Byte),
    decode (BitVec.ofNat 16 (0x3000 + x.val * 256 + kk.toNat)) = .ok (.seImm x kk) ∧
    WritesPc (.seImm x kk) s (if s.reg x = kk then s.pc + 2 else s.pc) ∧
    decode (BitVec.ofNat 16 (0x4000 + x.val * 256 + kk.toNat)) = .ok (.sneImm x kk) ∧
    WritesPc (.sneImm x kk) s (if s.reg x ≠ kk then s.pc + 2 else s.pc)

/-- R108, R109: SE_REG and SNE_REG. -/
def Obligations.SkipOnRegisters : Prop :=
  ∀ (s : State) (x y : Reg),
    WritesPc (.seReg x y) s (if s.reg x = s.reg y then s.pc + 2 else s.pc) ∧
    WritesPc (.sneReg x y) s (if s.reg x ≠ s.reg y then s.pc + 2 else s.pc)

/-! ## Index register and memory -/

/-- R140, R142: LD_I and LD_FONT: their encodings; `I` becomes `nnn`, and five times the whole register. -/
def Obligations.LoadIndexResult : Prop :=
  ∀ (s : State) (x : Reg) (nnn : BitVec 12),
    decode (BitVec.ofNat 16 (0xA000 + nnn.toNat)) = .ok (.ldI nnn) ∧
    WritesIndex (.ldI nnn) s (BitVec.ofNat 16 nnn.toNat) ∧
    decode (BitVec.ofNat 16 (0xF029 + x.val * 256)) = .ok (.ldFont x) ∧
    WritesIndex (.ldFont x) s (BitVec.ofNat 16 (5 * (s.reg x).toNat))

/-- R141: ADD_I: a 16-bit add without a flag; past 65535 it wraps (the spec's decision D8). -/
def Obligations.AddIndexResult : Prop :=
  ∀ (s : State) (x : Reg),
    WritesIndex (.addI x) s (BitVec.ofNat 16 ((s.i.toNat + (s.reg x).toNat) % 65536))

/-- R143, R144, R53: LD_BCD in bounds: the hundreds, tens and units digits at `I`, `I + 1`, `I + 2`; every other byte and
everything but the heap is unchanged. -/
def Obligations.BcdStoresDigits : Prop :=
  ∀ (s : State) (x : Reg), Memory.wf s.params.font s.heap = true → s.address + 3 ≤ 4096 →
    ∃ t, exec (.ldBcd x) s = .next t ∧
      (t.byteAt s.address).toNat = (s.reg x).toNat / 100 ∧
      (t.byteAt (s.address + 1)).toNat = (s.reg x).toNat / 10 % 10 ∧
      (t.byteAt (s.address + 2)).toNat = (s.reg x).toNat % 10 ∧
      State.OnlyHeap s.address 3 s t

/-- R145, R144, R53: ST_REGS in bounds: `V[j]` at `I + j` for all 16 registers, whatever `x` is; every other byte and
everything but the heap, `I` included, is unchanged (the last is the spec's decision D10). -/
def Obligations.StRegsStoresAll : Prop :=
  ∀ (s : State) (x : Reg), Memory.wf s.params.font s.heap = true → s.address + 16 ≤ 4096 →
    ∃ t, exec (.stRegs x) s = .next t ∧ (∀ j : Reg, t.byteAt (s.address + j.val) = s.reg j) ∧
      State.OnlyHeap s.address 16 s t

/-- R146, R144, R52: LD_REGS in bounds: all 16 registers from the heap at `I`, whatever `x` is; nothing else changes, `I`
included (that `I` and the range do not depend on `x` is the spec's decision D10, log entry 12). -/
def Obligations.LdRegsLoadsAll : Prop :=
  ∀ (s : State) (x : Reg), s.address + 16 ≤ 4096 →
    WritesRegs (.ldRegs x) s (fun r => s.byteAt (s.address + r.val))

/-- R51, R52, R53, R172: DRW, LD_BCD, ST_REGS and LD_REGS stop when their range leaves the heap (the spec's decision
D3). -/
def Obligations.DataAccessOutOfBoundsStops : Prop :=
  ∀ (s : State) (x y : Reg) (n : Fin 16),
    (4096 < s.address + n.val → exec (.drw x y n) s = .fault (.outOfBounds s.address n.val)) ∧
    (4096 < s.address + 3 → exec (.ldBcd x) s = .fault (.outOfBounds s.address 3)) ∧
    (4096 < s.address + 16 → exec (.stRegs x) s = .fault (.outOfBounds s.address 16) ∧
      exec (.ldRegs x) s = .fault (.outOfBounds s.address 16))

/-- R145, R146: loading the registers from where they were stored brings back all 16, whatever the registers held in
between and whatever `x` is in either (the range is the spec's decision D10, log entry 12). -/
def Obligations.StoreThenLoadRestoresRegisters : Prop :=
  ∀ (s : State) (x x' : Reg), Memory.wf s.params.font s.heap = true → s.address + 16 ≤ 4096 →
    ∃ t, exec (.stRegs x) s = .next t ∧
      ∀ u : State, u.i = s.i → u.heap = t.heap → u.params = s.params →
        ∃ w, exec (.ldRegs x') u = .next w ∧ w.v = s.v

/-! ## Display -/

/-- R154: after the display is cleared every pixel is dark. -/
def Obligations.ClearDarkensEveryPixel : Prop :=
  ∀ (s : State) (row : Fin 32) (col : Fin 64), s.clearDisplay.fb.pixel row col = false

/-- R150: CLS clears the display by one call of `DISP.clear()`, without a `present()` (the spec's decision D20), and
changes nothing else, `VF` included. -/
def Obligations.ClsResult : Prop :=
  ∀ s : State, ∃ t, exec .cls s = .next t ∧ (∀ row col, t.fb.pixel row col = false) ∧
    t.calls = .dispClear :: s.calls ∧ t = { s with fb := t.fb, calls := t.calls } ∧ State.SameHeap s t

/-- R151: DRW in bounds: the `n` bytes at `I` are drawn at the old `V[x]`, `V[y]`, `VF` becomes the collision, the calls
are `draw` then `present` (an empty sprite included, the spec's decisions D20 and D28), and nothing else changes. -/
def Obligations.DrwResult : Prop :=
  ∀ (s : State) (x y : Reg) (n : Fin 16) (sprite : List Byte),
    s.address + n.val ≤ 4096 → sprite = s.bytesFrom s.address n.val →
    ∃ t, exec (.drw x y n) s = .next t ∧ t.fb = (s.fb.draw sprite (s.reg x) (s.reg y)).1 ∧
      (∀ r, t.reg r = if r = 15 then bitByte (s.fb.draw sprite (s.reg x) (s.reg y)).2 else s.reg r) ∧
      t.calls = .dispPresent :: .dispDraw sprite (s.reg x) (s.reg y) :: s.calls ∧
      t = { s with v := t.v, fb := t.fb, calls := t.calls } ∧ State.SameHeap s t

/-- R155: the drawing loop, read pixel by pixel: each pixel is XORed with the sprite bit that falls on it, rows modulo 32
and columns modulo 64, and the collision is that some set bit fell on a lit pixel. -/
def Obligations.DrawXorsEveryPixel : Prop :=
  ∀ (fb : Screen) (sprite : List Byte) (x0 y0 : Byte), sprite.length ≤ 15 →
    (∀ row col, (fb.draw sprite x0 y0).1.pixel row col =
      (fb.pixel row col ^^ coversPixel sprite x0 y0 row col)) ∧
    ((fb.draw sprite x0 y0).2 = true ↔
      ∃ row col, coversPixel sprite x0 y0 row col = true ∧ fb.pixel row col = true)

/-- R155 and the source's example S5: drawing a sprite twice in the same place restores the display; from a clear display
the first draw reports no collision and the second reports one exactly when the sprite has a set bit. -/
def Obligations.DrawTwiceRestoresDisplay : Prop :=
  ∀ (fb : Screen) (sprite : List Byte) (x0 y0 : Byte), sprite.length ≤ 15 →
    ((fb.draw sprite x0 y0).1.draw sprite x0 y0).1 = fb ∧
    (darkScreen.draw sprite x0 y0).2 = false ∧
    (((darkScreen.draw sprite x0 y0).1.draw sprite x0 y0).2 = true ↔
      ∃ b ∈ sprite, b ≠ 0)

/-! ## Keyboard and timers -/

/-- R160, R161: SKP and SKNP with a key number (0 to 15, the spec's decision D21): one call of `KBD.pressed`, a skip on its
answer, nothing else. -/
def Obligations.SkipOnKeyResult : Prop :=
  ∀ (s : State) (x : Reg) (k : Fin 16), (s.reg x).toNat = k.val →
    (∃ t, exec (.skp x) s = .next t ∧ t.pc = (if s.keys.get k = true then s.pc + 2 else s.pc) ∧
      t.calls = .kbdPressed k :: s.calls ∧ t = { s with pc := t.pc, calls := t.calls } ∧ State.SameHeap s t) ∧
    (∃ t, exec (.sknp x) s = .next t ∧ t.pc = (if s.keys.get k = false then s.pc + 2 else s.pc) ∧
      t.calls = .kbdPressed k :: s.calls ∧ t = { s with pc := t.pc, calls := t.calls } ∧ State.SameHeap s t)

/-- R160, R161, R166, R174: SKP and SKNP stop on a key number above 15 (the spec's decisions D11 and D21). -/
def Obligations.BadKeyNumberStops : Prop :=
  ∀ (s : State) (x : Reg), 15 < (s.reg x).toNat →
    exec (.skp x) s = .fault (.badKeyIndex (s.reg x)) ∧ exec (.sknp x) s = .fault (.badKeyIndex (s.reg x))

/-- R162: LD_KEY when the keyboard has reported key `k`: `V[x]` becomes `k` and nothing else changes but the call made and
the report, which is used up. That a key reported before LD_KEY asks ends the wait at once, and that one report ends one
wait, is the model's DESIGN CHOICE (log entry 9): the spec leaves the event to the device (D26). -/
def Obligations.KeyWaitResult : Prop :=
  ∀ (s : State) (x : Reg) (k : Fin 16), s.keyReport = some k →
    ∃ t, exec (.ldKey x) s = .next t ∧ (∀ r, t.reg r = if r = x then BitVec.ofNat 8 k.val else s.reg r) ∧
      t.keyReport = none ∧ t.calls = .kbdWaitKey :: s.calls ∧
      t = { s with v := t.v, keyReport := t.keyReport, calls := t.calls } ∧ State.SameHeap s t

/-- R162, R182, R218, R222: LD_KEY when no key has been reported and the host reports `k` after the turns `turns`: those
turns happen during the wait and the machine stands still (no tick, no fetch, no poll: a signal raised stays pending); then
`V[x]` becomes `k`, and the time waited is given back to the deadline. That the host's coming turns are a list is the model's
DESIGN CHOICE (log entries 7, 8); which event is a report is the device's (D26). -/
def Obligations.KeyWaitFreezesMachine : Prop :=
  ∀ (s : State) (x : Reg) (k : Fin 16) (turns rest : List HostTurn),
    s.keyReport = none → s.host = turns ++ .reportKey k :: rest → (∀ j, HostTurn.reportKey j ∉ turns) →
    ∃ t, exec (.ldKey x) s = .next t ∧ (∀ r, t.reg r = if r = x then BitVec.ofNat 8 k.val else s.reg r) ∧
      (t.resetSignal = true ↔ s.resetSignal = true ∨ HostTurn.raiseReset ∈ turns) ∧
      (t.powerOffSignal = true ↔ s.powerOffSignal = true ∨ HostTurn.raisePowerOff ∈ turns) ∧
      t = { s with
        v := t.v, calls := .kbdWaitKey :: s.calls, host := rest, keys := keysAfter s.keys turns
        resetSignal := t.resetSignal, powerOffSignal := t.powerOffSignal
        now := s.now + elapsedIn turns, dl := s.dl + elapsedIn turns } ∧ State.SameHeap s t

/-- R162 (and U10): LD_KEY has no successor when no key has been reported and no turn of the host reports one, an empty list
of turns included: the refusal is by name. The list of turns is the model's DESIGN CHOICE (log entries 7, 8). -/
def Obligations.KeyWaitBlocks : Prop :=
  ∀ (s : State) (x : Reg), s.keyReport = none → (∀ k, HostTurn.reportKey k ∉ s.host) →
    exec (.ldKey x) s = .refused .waitingForKey

/-- R163, R164: LD_VX_DT reads the delay timer, LD_DT writes it, and nothing else changes. -/
def Obligations.DelayTimerMoves : Prop :=
  ∀ (s : State) (x : Reg),
    WritesRegs (.ldVxDt x) s (fun r => if r = x then s.dt else s.reg r) ∧
    (∃ t, exec (.ldDt x) s = .next t ∧ t.dt = s.reg x ∧ t = { s with dt := t.dt } ∧ State.SameHeap s t)

/-- R165: LD_ST: `ST` becomes `V[x]`; `BUZ.start()` is called, once, exactly when `ST` was 0 and `V[x]` is not (that no
other buzzer call is made is the spec's decision D13). -/
def Obligations.SoundTimerWrite : Prop :=
  ∀ (s : State) (x : Reg), ∃ t, exec (.ldSt x) s = .next t ∧ t.st = s.reg x ∧
    (s.st = 0 ∧ s.reg x ≠ 0 → t.calls = .buzStart :: s.calls ∧ t.buzzing = true) ∧
    (¬ (s.st = 0 ∧ s.reg x ≠ 0) → t.calls = s.calls ∧ t.buzzing = s.buzzing) ∧
    t = { s with st := t.st, calls := t.calls, buzzing := t.buzzing } ∧ State.SameHeap s t

/-- R180, R183: a tick: each timer falls by one unless it is 0, and `BUZ.stop()` is called exactly when `ST` falls from 1
(the spec's decision D13); nothing else changes. -/
def Obligations.TickCountsDown : Prop :=
  ∀ s : State,
    s.tick.dt.toNat = s.dt.toNat - 1 ∧ s.tick.st.toNat = s.st.toNat - 1 ∧
    (s.st.toNat = 1 → s.tick.calls = .buzStop :: s.calls ∧ s.tick.buzzing = false) ∧
    (s.st.toNat ≠ 1 → s.tick.calls = s.calls ∧ s.tick.buzzing = s.buzzing) ∧
    s.tick = { s with dt := s.tick.dt, st := s.tick.st, calls := s.tick.calls, buzzing := s.tick.buzzing }

/-- R33, R181: the timer steps of `M` consecutive cycles tick exactly once, at whatever phase they start, and bring the
prescaler back. -/
def Obligations.OneTickInEveryMCycles : Prop :=
  ∀ s : State, s.psc < s.params.clockMultiplier →
    (Nat.iterate State.prescale s.params.clockMultiplier s).psc = s.psc ∧
    (Nat.iterate State.prescale s.params.clockMultiplier s).dt.toNat = s.dt.toNat - 1 ∧
    (Nat.iterate State.prescale s.params.clockMultiplier s).st.toNat = s.st.toNat - 1

/-! ## The cycle, the pacing loop and the host -/

/-- R26, R54, R216: when a cycle is due and the two bytes at `PC`, high byte first, decode to an instruction, the step is
that instruction's meaning, at the state after the timer step and with `PC` advanced by 2; a completed cycle moves the
deadline on by the period, and a stop is the step's. That an odd `PC` fetches like any other is the spec's decision D6 (log
entry 12); that a cycle runs at the deadline when the host has nothing more to do is the model's DESIGN CHOICE (log
entry 7). -/
def Obligations.StepRunsDecodedInstruction : Prop :=
  ∀ (s : State) (time : Nat) (rest : List HostTurn) (i : Instr), s.CycleDue time rest → s.pc.toNat + 2 ≤ 4096 →
    decode (BitVec.ofNat 16 ((s.byteAt s.pc.toNat).toNat * 256 + (s.byteAt (s.pc.toNat + 1)).toNat)) = .ok i →
    step s = closeCycle (exec i ({ s with now := time, host := rest } : State).prescale.advance) ∧
    (({ s with now := time, host := rest } : State).prescale.advance).pc = s.pc + 2 ∧
    (∀ t, closeCycle (.next t) = .next { t with dl := t.dl + t.params.cyclePeriod }) ∧
    (∀ f, closeCycle (.fault f) = .fault f) ∧ (∀ r, closeCycle (.refused r) = .refused r)

/-- R54, R87, R171, R172, R213: a cycle whose `PC` is above 4094 stops at the fetch, and one that fetches an illegal word
stops and names the word (the fetch fault is the spec's decisions D3 and D7, the illegal words of classes 5 and 9 its
decision D5, an odd `PC` its decision D6: log entry 12). That a cycle runs when the host has nothing more to do is the
model's DESIGN CHOICE (log entry 7). -/
def Obligations.UnrunnableCyclesStop : Prop :=
  ∀ (s : State) (time : Nat) (rest : List HostTurn), s.CycleDue time rest →
    (4094 < s.pc.toNat → step s = .fault (.outOfBounds s.pc.toNat 2)) ∧
    (s.pc.toNat ≤ 4094 → ∀ w : Word,
      w = BitVec.ofNat 16 ((s.byteAt s.pc.toNat).toNat * 256 + (s.byteAt (s.pc.toNat + 1)).toNat) → IllegalWord w →
      step s = .fault (.invalidInstruction w))

/-- R205: a jump to itself: every field of the machine, `RUN`, the registers, the stack, the heap and the display among
them, is as before, but for the timers and the prescaler, the buzzer when the sound timer ends (decision D13), and the
loop's clock, deadline and list of host turns. That an odd `PC` fetches like any other is the spec's decision D6 (log entry
12); that a cycle runs when the host has nothing more to do is the model's DESIGN CHOICE (log entry 7). -/
def Obligations.SelfJumpStaysPut : Prop :=
  ∀ (s : State) (time : Nat) (rest : List HostTurn), s.CycleDue time rest → s.pc.toNat + 2 ≤ 4096 →
    (s.byteAt s.pc.toNat).toNat * 256 + (s.byteAt (s.pc.toNat + 1)).toNat = 0x1000 + s.pc.toNat →
    ∃ t, step s = .next t ∧
      t = { s with
        psc := (s.psc + 1) % s.params.clockMultiplier, dt := t.dt, st := t.st
        calls := if s.psc = 0 ∧ s.st.toNat = 1 then .buzStop :: s.calls else s.calls
        buzzing := if s.psc = 0 ∧ s.st.toNat = 1 then false else s.buzzing
        now := time, host := rest, dl := s.dl + s.params.cyclePeriod } ∧
      State.SameHeap s t ∧
      t.dt.toNat = (if s.psc = 0 then s.dt.toNat - 1 else s.dt.toNat) ∧
      t.st.toNat = (if s.psc = 0 then s.st.toNat - 1 else s.st.toNat)

/-- R216, R217: an iteration of the loop before the deadline sleeps, for at least one millisecond, and polls; no cycle
runs. That a sleep of the length the host turn names is at least 1 ms is log entry 10. -/
def Obligations.IdleTurnSleepsAndPolls : Prop :=
  ∀ (s : State) (elapsed sleep : Nat) (rest : List HostTurn),
    s.run = .running → s.host = .clock elapsed sleep :: rest → s.now + elapsed < s.dl →
    ∃ d, d ≥ s.params.oneMillisecond ∧ d ≥ sleep ∧
      step s = .next ({ s with now := s.now + elapsed + d, host := rest } : State).poll

/-- R177, R178: one poll: power-off first, which halts and leaves the reset signal unread; else a pending reset signal is
cleared and performs `Reset()`, the machine still running; each signal read is cleared. The order is the spec's decision
D16. -/
def Obligations.PollReadsSignals : Prop :=
  ∀ s : State,
    (s.powerOffSignal = true →
      s.poll = { s with powerOffSignal := false, run := .halted, calls := .kbdPowerOffSignal :: s.calls }) ∧
    (s.powerOffSignal = false → s.resetSignal = false →
      s.poll = { s with calls := .kbdResetSignal :: .kbdPowerOffSignal :: s.calls }) ∧
    (s.powerOffSignal = false → s.resetSignal = true →
      s.poll = ({ s with
        resetSignal := false, calls := .kbdResetSignal :: .kbdPowerOffSignal :: s.calls } : State).resetEngine ∧
      s.poll.resetSignal = false ∧ s.poll.run = s.run ∧ s.poll.pc = 512 ∧
      s.poll.calls = .buzReset :: .kbdReset :: .dispReset :: .kbdResetSignal :: .kbdPowerOffSignal :: s.calls)

/-- R41, R200, R202: what a reset leaves: registers and timers zero, `SP` zero and the stack entries zero (the latter the
spec's decision D14), `PC` = 512, the heap the font, the ROM and zeros, the display dark, the buzzer silent (D27), the
prescaler some value below `M` (D12; a free value, log entry 3), the deadline now (D29; log entry 10); the three devices are
told to reset; run state, parameters, random source and clock are as they were. That the key states, the key reported and
the host's turns are as they were is the model's choice (D27, log entry 9); a pending signal may be kept or not, and none
appears. -/
def Obligations.ResetRestoresEverything : Prop :=
  ∀ (s t : State), t = s.resetEngine → s.params.wf = true →
    (∀ r, t.reg r = 0) ∧ t.i = 0 ∧ t.pc.toNat = 512 ∧ t.dt = 0 ∧ t.st = 0 ∧ t.sp = 0 ∧
    (∀ k : Fin 16, t.stack.get k = 0) ∧
    (∀ a : Fin 80, t.byteAt a.val = s.params.font.get a) ∧
    (∀ a, 80 ≤ a → a < 512 → t.byteAt a = 0) ∧
    (∀ j : Nat, j < s.params.rom.length → t.byteAt (512 + j) = s.params.rom.getD j 0) ∧
    (∀ a, 512 + s.params.rom.length ≤ a → t.byteAt a = 0) ∧
    (∀ row col, t.fb.pixel row col = false) ∧ t.buzzing = false ∧ t.psc < s.params.clockMultiplier ∧ t.dl = s.now ∧
    t.calls = .buzReset :: .kbdReset :: .dispReset :: s.calls ∧
    t.run = s.run ∧ t.params = s.params ∧ t.rngCount = s.rngCount ∧ t.now = s.now ∧
    t.keys = s.keys ∧ t.keyReport = s.keyReport ∧ t.host = s.host ∧
    (s.resetSignal = false → t.resetSignal = false) ∧ (s.powerOffSignal = false → t.powerOffSignal = false)

/-- R63, R172, R200, R201: `load` refuses a ROM longer than 3584 bytes (the spec's decision D17), and with any other starts
a run at 512 with everything reset and the ROM in the heap. That `load` itself starts the run, whatever `RUN` was, is the
model's DESIGN CHOICE (log entry 13): it stands for the load and run of a newly constructed engine. -/
def Obligations.LoadResult : Prop :=
  ∀ (s : State) (rom : List Byte),
    (3584 < rom.length → load rom s = .fault (.outOfBounds 512 rom.length)) ∧
    (rom.length ≤ 3584 → ∃ t, load rom s = .next t ∧ t.run = .running ∧ t.pc.toNat = 512 ∧ t.sp = 0 ∧
      (∀ r, t.reg r = 0) ∧ t.i = 0 ∧ t.dt = 0 ∧ t.st = 0 ∧
      (∀ a : Fin 80, t.byteAt a.val = s.params.font.get a) ∧ (∀ a, 80 ≤ a → a < 512 → t.byteAt a = 0) ∧
      (∀ j : Nat, j < rom.length → t.byteAt (512 + j) = rom.getD j 0) ∧
      (∀ a, 512 + rom.length ≤ a → t.byteAt a = 0) ∧
      (∀ row col, t.fb.pixel row col = false) ∧ t.params = { s.params with rom := rom })

/-- R34, R173, R178: `Halted` and `Faulted` are terminal: no cycle and no poll follows; and a fault has no next state. That
the step of a halted machine is a refusal by the name `halted` is the model's DESIGN CHOICE (log entry 6), that a fault is
the step's outcome another (log entry 5). -/
def Obligations.EndedRunsStayEnded : Prop :=
  ∀ s : State,
    (s.run = .halted → step s = .refused .halted) ∧
    (∀ f, s.run = .faulted f → step s = .fault f) ∧
    (∀ t f, step s = .next t → t.run ≠ .faulted f)

/-- R37, R39, R68, R193: a turn of the host other than the clock's sets the key states, the key reported, or a pending signal,
as it says, and touches nothing else: not the heap, the stack or the registers. The list of turns is the model's DESIGN
CHOICE (log entry 7), and that a report replaces one not yet taken another (log entry 9). -/
def Obligations.HostTurnsTouchOnlyInputs : Prop :=
  ∀ (s : State) (h : HostTurn) (rest : List HostTurn), s.run = .running → s.host = h :: rest →
    (∀ pressed, h = .setKeys pressed → step s = .next { s with keys := pressed, host := rest }) ∧
    (∀ key, h = .reportKey key → step s = .next { s with keyReport := some key, host := rest }) ∧
    (h = .raiseReset → step s = .next { s with resetSignal := true, host := rest }) ∧
    (h = .raisePowerOff → step s = .next { s with powerOffSignal := true, host := rest }) ∧
    ((∀ elapsed sleep, h ≠ .clock elapsed sleep) → ∃ t, step s = .next t ∧ t = { s with
      keys := t.keys, keyReport := t.keyReport, resetSignal := t.resetSignal, powerOffSignal := t.powerOffSignal
      host := rest } ∧ State.SameHeap s t)

/-! ## Rules of the whole machine -/

/-- The machine's invariant (R28, R31, R33, R50): every step keeps the heap canonical and inside its 4096 bytes, the
prescaler below `M`, `PC` at most 4350 and every return address at most 4096. -/
def Obligations.StepKeepsInvariant : Prop :=
  ∀ s t : State, s.Inv → step s = .next t → t.Inv

/-- The invariant holds of the state after reset (R41). -/
def Obligations.ResetMeetsInvariant : Prop := State.reset.Inv

/-- R24: no instruction other than LD_I, ADD_I and LD_FONT changes `I`. That ST_REGS and LD_REGS leave it is the spec's
decision D10 (log entry 12). -/
def Obligations.IndexChangesOnlyByThree : Prop :=
  ∀ (s t : State) (i : Instr), exec i s = .next t → t.i ≠ s.i →
    (∃ nnn, i = .ldI nnn) ∨ (∃ x, i = .addI x) ∨ (∃ x, i = .ldFont x)

/-- R22, R23: register 15 changes only by the six instructions that write the flag, by an instruction that writes `V[x]`
with `x` = 15, and by LD_REGS. -/
def Obligations.FlagChangesOnlyAsListed : Prop :=
  ∀ (s t : State) (i : Instr), exec i s = .next t → t.reg 15 ≠ s.reg 15 →
    (∃ x y, i = .addReg x y) ∨ (∃ x y, i = .sub x y) ∨ (∃ x y, i = .shr x y) ∨ (∃ x y, i = .subn x y) ∨
    (∃ x y, i = .shl x y) ∨ (∃ x y n, i = .drw x y n) ∨ (∃ x, i = .ldRegs x) ∨
    (∃ kk, i = .ldImm 15 kk) ∨ (∃ kk, i = .addImm 15 kk) ∨ (∃ y, i = .ldReg 15 y) ∨ (∃ y, i = .orReg 15 y) ∨
    (∃ y, i = .andReg 15 y) ∨ (∃ y, i = .xorReg 15 y) ∨ (∃ kk, i = .rnd 15 kk) ∨ i = .ldVxDt 15 ∨ i = .ldKey 15

/-- R29 to R32: `SP` and the stack change only by CALL and RET, `DT` only by LD_DT, `ST` only by LD_ST (the tick apart,
which is the cycle's). -/
def Obligations.StackAndTimersChangeOnlyAsListed : Prop :=
  ∀ (s t : State) (i : Instr), exec i s = .next t →
    (t.sp ≠ s.sp → (∃ nnn, i = .call nnn) ∨ i = .ret) ∧
    (t.stack ≠ s.stack → ∃ nnn, i = .call nnn) ∧
    (t.dt ≠ s.dt → ∃ x, i = .ldDt x) ∧ (t.st ≠ s.st → ∃ x, i = .ldSt x)

/-- R59, R60: a heap byte changes only by LD_BCD within `[I, I + 3)` and by ST_REGS within `[I, I + 16)`. -/
def Obligations.HeapChangesOnlyByStores : Prop :=
  ∀ (s t : State) (i : Instr) (a : Nat), Memory.wf s.params.font s.heap = true → exec i s = .next t →
    t.byteAt a ≠ s.byteAt a →
    ((∃ x, i = .ldBcd x) ∧ s.address ≤ a ∧ a < s.address + 3) ∨
    ((∃ x, i = .stRegs x) ∧ s.address ≤ a ∧ a < s.address + 16)

/-- R33, R37, R39, R40, R218: no instruction touches the prescaler, the run state or the parameters; the display changes only
by CLS and DRW. None but LD_KEY touches the clock, the deadline, the key states, the key reported, the pending signals or the
host's turns. The host acts during LD_KEY's wait: even then the clock does not go back, the deadline moves on by exactly the
time waited, and no signal raised is lost. -/
def Obligations.InstructionsLeaveEngineState : Prop :=
  ∀ (s t : State) (i : Instr), exec i s = .next t →
    t.psc = s.psc ∧ t.run = s.run ∧ t.params = s.params ∧ t.resetCount = s.resetCount ∧
    (t.fb ≠ s.fb → i = .cls ∨ ∃ x y n, i = .drw x y n) ∧
    ((∀ x, i ≠ .ldKey x) → t.now = s.now ∧ t.dl = s.dl ∧ t.keys = s.keys ∧ t.keyReport = s.keyReport ∧
      t.resetSignal = s.resetSignal ∧ t.powerOffSignal = s.powerOffSignal ∧ t.host = s.host) ∧
    s.now ≤ t.now ∧ t.dl + s.now = s.dl + t.now ∧
    (s.resetSignal = true → t.resetSignal = true) ∧ (s.powerOffSignal = true → t.powerOffSignal = true)

/-- R7, R40, R202: the parameters are fixed: no step changes them. -/
def Obligations.ParametersNeverChange : Prop :=
  ∀ s t : State, step s = .next t → t.params = s.params
end

