-- ==== Sys2Proof/Laws/Decode.lean ====
section
/-! SUPPORT. The decoder's fields of a word the encoder assembled, and of the bytes of a word. -/

namespace Sys2Proof.Laws

/-- R9: a slice of a word given by its number. -/
theorem slice_ofNat (n hi lo : Nat) (h : n < 65536) :
    slice (BitVec.ofNat 16 n) hi lo = n / 2 ^ lo % 2 ^ (hi + 1 - lo) := by
  simp only [slice, BitVec.toNat_ofNat]
  rw [Nat.mod_eq_of_lt (show n < 2 ^ 16 from h)]

variable (c : Nat) (x y : Reg) (n : Fin 16) (kk : Byte) (nnn : BitVec 12)

theorem slice_assembleA (hc : c < 16) (hi lo : Nat) :
    slice (assembleA c nnn) hi lo = (c * 4096 + nnn.toNat) / 2 ^ lo % 2 ^ (hi + 1 - lo) :=
  slice_ofNat _ hi lo (by have := nnn.isLt; omega)

theorem slice_assembleXK (hc : c < 16) (hi lo : Nat) :
    slice (assembleXK c x kk) hi lo = (c * 4096 + x.val * 256 + kk.toNat) / 2 ^ lo % 2 ^ (hi + 1 - lo) :=
  slice_ofNat _ hi lo (by have := x.isLt; have := kk.isLt; omega)

theorem slice_assembleXY (hc : c < 16) (hi lo : Nat) :
    slice (assembleXY c x y n) hi lo =
      (c * 4096 + x.val * 256 + y.val * 16 + n.val) / 2 ^ lo % 2 ^ (hi + 1 - lo) :=
  slice_ofNat _ hi lo (by have := x.isLt; have := y.isLt; have := n.isLt; omega)

/-! ## The fields of an assembled word -/

theorem fieldC_assembleA (hc : c < 16) : fieldC (assembleA c nnn) = c := by
  have := nnn.isLt
  rw [fieldC, slice_assembleA c nnn hc]
  omega

theorem fieldNNN_assembleA (hc : c < 16) : fieldNNN (assembleA c nnn) = nnn := by
  have := nnn.isLt
  rw [fieldNNN, slice_assembleA c nnn hc]
  apply BitVec.eq_of_toNat_eq
  simp only [BitVec.toNat_ofNat]
  omega

theorem fieldC_assembleXK (hc : c < 16) : fieldC (assembleXK c x kk) = c := by
  have := x.isLt
  have := kk.isLt
  rw [fieldC, slice_assembleXK c x kk hc]
  omega

theorem fieldX_assembleXK (hc : c < 16) : fieldX (assembleXK c x kk) = x := by
  have := x.isLt
  have := kk.isLt
  apply Fin.ext
  simp only [fieldX, slice_assembleXK c x kk hc]
  omega

theorem slice_low_assembleXK (hc : c < 16) : slice (assembleXK c x kk) 7 0 = kk.toNat := by
  have := x.isLt
  have := kk.isLt
  rw [slice_assembleXK c x kk hc]
  omega

theorem fieldKK_assembleXK (hc : c < 16) : fieldKK (assembleXK c x kk) = kk := by
  rw [fieldKK, slice_low_assembleXK c x kk hc, BitVec.ofNat_toNat, BitVec.setWidth_eq]

theorem fieldC_assembleXY (hc : c < 16) : fieldC (assembleXY c x y n) = c := by
  have := x.isLt
  have := y.isLt
  have := n.isLt
  rw [fieldC, slice_assembleXY c x y n hc]
  omega

theorem fieldX_assembleXY (hc : c < 16) : fieldX (assembleXY c x y n) = x := by
  have := x.isLt
  have := y.isLt
  have := n.isLt
  apply Fin.ext
  simp only [fieldX, slice_assembleXY c x y n hc]
  omega

theorem fieldY_assembleXY (hc : c < 16) : fieldY (assembleXY c x y n) = y := by
  have := x.isLt
  have := y.isLt
  have := n.isLt
  apply Fin.ext
  simp only [fieldY, slice_assembleXY c x y n hc]
  omega

theorem fieldN_assembleXY (hc : c < 16) : fieldN (assembleXY c x y n) = n := by
  have := x.isLt
  have := y.isLt
  have := n.isLt
  apply Fin.ext
  simp only [fieldN, slice_assembleXY c x y n hc]
  omega

/-! ## Bytes and words -/

/-- R54, R80: the word of a word's two bytes, high byte first, is the word. -/
theorem wordOfBytes_bytesOfWord (w : Word) :
    wordOfBytes (BitVec.ofNat 8 (slice w 15 8)) (BitVec.ofNat 8 (slice w 7 0)) = w := by
  apply BitVec.eq_of_toNat_eq
  have := w.isLt
  simp only [wordOfBytes, slice, BitVec.toNat_ofNat]
  omega

/-- A decoder that reads the bytes of a word reads the word. -/
theorem decodeBytes_bytesOfWord (w : Word) (rest : List Byte) :
    decodeBytes (bytesOfWord w ++ rest) = (decode w).map (fun i => (i, rest)) := by
  simp [decodeBytes, bytesOfWord, wordOfBytes_bytesOfWord]

end Sys2Proof.Laws
end

