-- ==== Sys2Proof/Laws/State.lean ====
section
/-! SUPPORT. The small lemmas of the state's updates, one per field, each true by unfolding the update once. -/

namespace Sys2Proof.Laws

open Sys2Proof.Machine

/-! ## State.setReg -/

@[simp] theorem setReg_v (s : State) (x : Reg) (b : Byte) :
    (s.setReg x b).v = s.v.set x.val b x.isLt := rfl
@[simp] theorem setReg_i (s : State) (x : Reg) (b : Byte) : (s.setReg x b).i = s.i := rfl
@[simp] theorem setReg_pc (s : State) (x : Reg) (b : Byte) : (s.setReg x b).pc = s.pc := rfl
@[simp] theorem setReg_dt (s : State) (x : Reg) (b : Byte) : (s.setReg x b).dt = s.dt := rfl
@[simp] theorem setReg_st (s : State) (x : Reg) (b : Byte) : (s.setReg x b).st = s.st := rfl
@[simp] theorem setReg_sp (s : State) (x : Reg) (b : Byte) : (s.setReg x b).sp = s.sp := rfl
@[simp] theorem setReg_stack (s : State) (x : Reg) (b : Byte) :
    (s.setReg x b).stack = s.stack := rfl
@[simp] theorem setReg_heap (s : State) (x : Reg) (b : Byte) :
    (s.setReg x b).heap = s.heap := rfl
@[simp] theorem setReg_psc (s : State) (x : Reg) (b : Byte) : (s.setReg x b).psc = s.psc := rfl
@[simp] theorem setReg_run (s : State) (x : Reg) (b : Byte) : (s.setReg x b).run = s.run := rfl
@[simp] theorem setReg_dl (s : State) (x : Reg) (b : Byte) : (s.setReg x b).dl = s.dl := rfl
@[simp] theorem setReg_now (s : State) (x : Reg) (b : Byte) : (s.setReg x b).now = s.now := rfl
@[simp] theorem setReg_fb (s : State) (x : Reg) (b : Byte) : (s.setReg x b).fb = s.fb := rfl
@[simp] theorem setReg_keys (s : State) (x : Reg) (b : Byte) :
    (s.setReg x b).keys = s.keys := rfl
@[simp] theorem setReg_keyReport (s : State) (x : Reg) (b : Byte) :
    (s.setReg x b).keyReport = s.keyReport := rfl
@[simp] theorem setReg_resetSignal (s : State) (x : Reg) (b : Byte) :
    (s.setReg x b).resetSignal = s.resetSignal := rfl
@[simp] theorem setReg_powerOffSignal (s : State) (x : Reg) (b : Byte) :
    (s.setReg x b).powerOffSignal = s.powerOffSignal := rfl
@[simp] theorem setReg_buzzing (s : State) (x : Reg) (b : Byte) :
    (s.setReg x b).buzzing = s.buzzing := rfl
@[simp] theorem setReg_calls (s : State) (x : Reg) (b : Byte) :
    (s.setReg x b).calls = s.calls := rfl
@[simp] theorem setReg_rngCount (s : State) (x : Reg) (b : Byte) :
    (s.setReg x b).rngCount = s.rngCount := rfl
@[simp] theorem setReg_resetCount (s : State) (x : Reg) (b : Byte) :
    (s.setReg x b).resetCount = s.resetCount := rfl
@[simp] theorem setReg_host (s : State) (x : Reg) (b : Byte) :
    (s.setReg x b).host = s.host := rfl
@[simp] theorem setReg_params (s : State) (x : Reg) (b : Byte) :
    (s.setReg x b).params = s.params := rfl

/-! ## State.setFlag -/

@[simp] theorem setFlag_v (s : State) (c : Bool) :
    (s.setFlag c).v = s.v.set 15 (flagByte c) := rfl
@[simp] theorem setFlag_i (s : State) (c : Bool) : (s.setFlag c).i = s.i := rfl
@[simp] theorem setFlag_pc (s : State) (c : Bool) : (s.setFlag c).pc = s.pc := rfl
@[simp] theorem setFlag_dt (s : State) (c : Bool) : (s.setFlag c).dt = s.dt := rfl
@[simp] theorem setFlag_st (s : State) (c : Bool) : (s.setFlag c).st = s.st := rfl
@[simp] theorem setFlag_sp (s : State) (c : Bool) : (s.setFlag c).sp = s.sp := rfl
@[simp] theorem setFlag_stack (s : State) (c : Bool) : (s.setFlag c).stack = s.stack := rfl
@[simp] theorem setFlag_heap (s : State) (c : Bool) : (s.setFlag c).heap = s.heap := rfl
@[simp] theorem setFlag_psc (s : State) (c : Bool) : (s.setFlag c).psc = s.psc := rfl
@[simp] theorem setFlag_run (s : State) (c : Bool) : (s.setFlag c).run = s.run := rfl
@[simp] theorem setFlag_dl (s : State) (c : Bool) : (s.setFlag c).dl = s.dl := rfl
@[simp] theorem setFlag_now (s : State) (c : Bool) : (s.setFlag c).now = s.now := rfl
@[simp] theorem setFlag_fb (s : State) (c : Bool) : (s.setFlag c).fb = s.fb := rfl
@[simp] theorem setFlag_keys (s : State) (c : Bool) : (s.setFlag c).keys = s.keys := rfl
@[simp] theorem setFlag_keyReport (s : State) (c : Bool) :
    (s.setFlag c).keyReport = s.keyReport := rfl
@[simp] theorem setFlag_resetSignal (s : State) (c : Bool) :
    (s.setFlag c).resetSignal = s.resetSignal := rfl
@[simp] theorem setFlag_powerOffSignal (s : State) (c : Bool) :
    (s.setFlag c).powerOffSignal = s.powerOffSignal := rfl
@[simp] theorem setFlag_buzzing (s : State) (c : Bool) : (s.setFlag c).buzzing = s.buzzing := rfl
@[simp] theorem setFlag_calls (s : State) (c : Bool) : (s.setFlag c).calls = s.calls := rfl
@[simp] theorem setFlag_rngCount (s : State) (c : Bool) : (s.setFlag c).rngCount = s.rngCount := rfl
@[simp] theorem setFlag_resetCount (s : State) (c : Bool) :
    (s.setFlag c).resetCount = s.resetCount := rfl
@[simp] theorem setFlag_host (s : State) (c : Bool) : (s.setFlag c).host = s.host := rfl
@[simp] theorem setFlag_params (s : State) (c : Bool) : (s.setFlag c).params = s.params := rfl

/-! ## State.setRegs -/

@[simp] theorem setRegs_v (s : State) (b : List Byte) :
    (s.setRegs b).v = Vector.ofFn (fun j => b.getD j.val 0) := rfl
@[simp] theorem setRegs_i (s : State) (b : List Byte) : (s.setRegs b).i = s.i := rfl
@[simp] theorem setRegs_pc (s : State) (b : List Byte) : (s.setRegs b).pc = s.pc := rfl
@[simp] theorem setRegs_dt (s : State) (b : List Byte) : (s.setRegs b).dt = s.dt := rfl
@[simp] theorem setRegs_st (s : State) (b : List Byte) : (s.setRegs b).st = s.st := rfl
@[simp] theorem setRegs_sp (s : State) (b : List Byte) : (s.setRegs b).sp = s.sp := rfl
@[simp] theorem setRegs_stack (s : State) (b : List Byte) : (s.setRegs b).stack = s.stack := rfl
@[simp] theorem setRegs_heap (s : State) (b : List Byte) : (s.setRegs b).heap = s.heap := rfl
@[simp] theorem setRegs_psc (s : State) (b : List Byte) : (s.setRegs b).psc = s.psc := rfl
@[simp] theorem setRegs_run (s : State) (b : List Byte) : (s.setRegs b).run = s.run := rfl
@[simp] theorem setRegs_dl (s : State) (b : List Byte) : (s.setRegs b).dl = s.dl := rfl
@[simp] theorem setRegs_now (s : State) (b : List Byte) : (s.setRegs b).now = s.now := rfl
@[simp] theorem setRegs_fb (s : State) (b : List Byte) : (s.setRegs b).fb = s.fb := rfl
@[simp] theorem setRegs_keys (s : State) (b : List Byte) : (s.setRegs b).keys = s.keys := rfl
@[simp] theorem setRegs_keyReport (s : State) (b : List Byte) :
    (s.setRegs b).keyReport = s.keyReport := rfl
@[simp] theorem setRegs_resetSignal (s : State) (b : List Byte) :
    (s.setRegs b).resetSignal = s.resetSignal := rfl
@[simp] theorem setRegs_powerOffSignal (s : State) (b : List Byte) :
    (s.setRegs b).powerOffSignal = s.powerOffSignal := rfl
@[simp] theorem setRegs_buzzing (s : State) (b : List Byte) :
    (s.setRegs b).buzzing = s.buzzing := rfl
@[simp] theorem setRegs_calls (s : State) (b : List Byte) : (s.setRegs b).calls = s.calls := rfl
@[simp] theorem setRegs_rngCount (s : State) (b : List Byte) :
    (s.setRegs b).rngCount = s.rngCount := rfl
@[simp] theorem setRegs_resetCount (s : State) (b : List Byte) :
    (s.setRegs b).resetCount = s.resetCount := rfl
@[simp] theorem setRegs_host (s : State) (b : List Byte) : (s.setRegs b).host = s.host := rfl
@[simp] theorem setRegs_params (s : State) (b : List Byte) : (s.setRegs b).params = s.params := rfl

/-! ## State.setI -/

@[simp] theorem setI_v (s : State) (w : Word) : (s.setI w).v = s.v := rfl
@[simp] theorem setI_i (s : State) (w : Word) : (s.setI w).i = w := rfl
@[simp] theorem setI_pc (s : State) (w : Word) : (s.setI w).pc = s.pc := rfl
@[simp] theorem setI_dt (s : State) (w : Word) : (s.setI w).dt = s.dt := rfl
@[simp] theorem setI_st (s : State) (w : Word) : (s.setI w).st = s.st := rfl
@[simp] theorem setI_sp (s : State) (w : Word) : (s.setI w).sp = s.sp := rfl
@[simp] theorem setI_stack (s : State) (w : Word) : (s.setI w).stack = s.stack := rfl
@[simp] theorem setI_heap (s : State) (w : Word) : (s.setI w).heap = s.heap := rfl
@[simp] theorem setI_psc (s : State) (w : Word) : (s.setI w).psc = s.psc := rfl
@[simp] theorem setI_run (s : State) (w : Word) : (s.setI w).run = s.run := rfl
@[simp] theorem setI_dl (s : State) (w : Word) : (s.setI w).dl = s.dl := rfl
@[simp] theorem setI_now (s : State) (w : Word) : (s.setI w).now = s.now := rfl
@[simp] theorem setI_fb (s : State) (w : Word) : (s.setI w).fb = s.fb := rfl
@[simp] theorem setI_keys (s : State) (w : Word) : (s.setI w).keys = s.keys := rfl
@[simp] theorem setI_keyReport (s : State) (w : Word) : (s.setI w).keyReport = s.keyReport := rfl
@[simp] theorem setI_resetSignal (s : State) (w : Word) : (s.setI w).resetSignal = s.resetSignal := rfl
@[simp] theorem setI_powerOffSignal (s : State) (w : Word) :
    (s.setI w).powerOffSignal = s.powerOffSignal := rfl
@[simp] theorem setI_buzzing (s : State) (w : Word) : (s.setI w).buzzing = s.buzzing := rfl
@[simp] theorem setI_calls (s : State) (w : Word) : (s.setI w).calls = s.calls := rfl
@[simp] theorem setI_rngCount (s : State) (w : Word) : (s.setI w).rngCount = s.rngCount := rfl
@[simp] theorem setI_resetCount (s : State) (w : Word) : (s.setI w).resetCount = s.resetCount := rfl
@[simp] theorem setI_host (s : State) (w : Word) : (s.setI w).host = s.host := rfl
@[simp] theorem setI_params (s : State) (w : Word) : (s.setI w).params = s.params := rfl

/-! ## State.setPc -/

@[simp] theorem setPc_v (s : State) (w : Word) : (s.setPc w).v = s.v := rfl
@[simp] theorem setPc_i (s : State) (w : Word) : (s.setPc w).i = s.i := rfl
@[simp] theorem setPc_pc (s : State) (w : Word) : (s.setPc w).pc = w := rfl
@[simp] theorem setPc_dt (s : State) (w : Word) : (s.setPc w).dt = s.dt := rfl
@[simp] theorem setPc_st (s : State) (w : Word) : (s.setPc w).st = s.st := rfl
@[simp] theorem setPc_sp (s : State) (w : Word) : (s.setPc w).sp = s.sp := rfl
@[simp] theorem setPc_stack (s : State) (w : Word) : (s.setPc w).stack = s.stack := rfl
@[simp] theorem setPc_heap (s : State) (w : Word) : (s.setPc w).heap = s.heap := rfl
@[simp] theorem setPc_psc (s : State) (w : Word) : (s.setPc w).psc = s.psc := rfl
@[simp] theorem setPc_run (s : State) (w : Word) : (s.setPc w).run = s.run := rfl
@[simp] theorem setPc_dl (s : State) (w : Word) : (s.setPc w).dl = s.dl := rfl
@[simp] theorem setPc_now (s : State) (w : Word) : (s.setPc w).now = s.now := rfl
@[simp] theorem setPc_fb (s : State) (w : Word) : (s.setPc w).fb = s.fb := rfl
@[simp] theorem setPc_keys (s : State) (w : Word) : (s.setPc w).keys = s.keys := rfl
@[simp] theorem setPc_keyReport (s : State) (w : Word) : (s.setPc w).keyReport = s.keyReport := rfl
@[simp] theorem setPc_resetSignal (s : State) (w : Word) :
    (s.setPc w).resetSignal = s.resetSignal := rfl
@[simp] theorem setPc_powerOffSignal (s : State) (w : Word) :
    (s.setPc w).powerOffSignal = s.powerOffSignal := rfl
@[simp] theorem setPc_buzzing (s : State) (w : Word) : (s.setPc w).buzzing = s.buzzing := rfl
@[simp] theorem setPc_calls (s : State) (w : Word) : (s.setPc w).calls = s.calls := rfl
@[simp] theorem setPc_rngCount (s : State) (w : Word) : (s.setPc w).rngCount = s.rngCount := rfl
@[simp] theorem setPc_resetCount (s : State) (w : Word) : (s.setPc w).resetCount = s.resetCount := rfl
@[simp] theorem setPc_host (s : State) (w : Word) : (s.setPc w).host = s.host := rfl
@[simp] theorem setPc_params (s : State) (w : Word) : (s.setPc w).params = s.params := rfl

/-! ## State.advance -/

@[simp] theorem advance_v (s : State) : (s.advance).v = s.v := rfl
@[simp] theorem advance_i (s : State) : (s.advance).i = s.i := rfl
@[simp] theorem advance_pc (s : State) : (s.advance).pc = s.pc + 2 := rfl
@[simp] theorem advance_dt (s : State) : (s.advance).dt = s.dt := rfl
@[simp] theorem advance_st (s : State) : (s.advance).st = s.st := rfl
@[simp] theorem advance_sp (s : State) : (s.advance).sp = s.sp := rfl
@[simp] theorem advance_stack (s : State) : (s.advance).stack = s.stack := rfl
@[simp] theorem advance_heap (s : State) : (s.advance).heap = s.heap := rfl
@[simp] theorem advance_psc (s : State) : (s.advance).psc = s.psc := rfl
@[simp] theorem advance_run (s : State) : (s.advance).run = s.run := rfl
@[simp] theorem advance_dl (s : State) : (s.advance).dl = s.dl := rfl
@[simp] theorem advance_now (s : State) : (s.advance).now = s.now := rfl
@[simp] theorem advance_fb (s : State) : (s.advance).fb = s.fb := rfl
@[simp] theorem advance_keys (s : State) : (s.advance).keys = s.keys := rfl
@[simp] theorem advance_keyReport (s : State) : (s.advance).keyReport = s.keyReport := rfl
@[simp] theorem advance_resetSignal (s : State) : (s.advance).resetSignal = s.resetSignal := rfl
@[simp] theorem advance_powerOffSignal (s : State) : (s.advance).powerOffSignal = s.powerOffSignal := rfl
@[simp] theorem advance_buzzing (s : State) : (s.advance).buzzing = s.buzzing := rfl
@[simp] theorem advance_calls (s : State) : (s.advance).calls = s.calls := rfl
@[simp] theorem advance_rngCount (s : State) : (s.advance).rngCount = s.rngCount := rfl
@[simp] theorem advance_resetCount (s : State) : (s.advance).resetCount = s.resetCount := rfl
@[simp] theorem advance_host (s : State) : (s.advance).host = s.host := rfl
@[simp] theorem advance_params (s : State) : (s.advance).params = s.params := rfl

/-! ## State.emit -/

@[simp] theorem emit_v (s : State) (c : DeviceCall) : (s.emit c).v = s.v := rfl
@[simp] theorem emit_i (s : State) (c : DeviceCall) : (s.emit c).i = s.i := rfl
@[simp] theorem emit_pc (s : State) (c : DeviceCall) : (s.emit c).pc = s.pc := rfl
@[simp] theorem emit_dt (s : State) (c : DeviceCall) : (s.emit c).dt = s.dt := rfl
@[simp] theorem emit_st (s : State) (c : DeviceCall) : (s.emit c).st = s.st := rfl
@[simp] theorem emit_sp (s : State) (c : DeviceCall) : (s.emit c).sp = s.sp := rfl
@[simp] theorem emit_stack (s : State) (c : DeviceCall) : (s.emit c).stack = s.stack := rfl
@[simp] theorem emit_heap (s : State) (c : DeviceCall) : (s.emit c).heap = s.heap := rfl
@[simp] theorem emit_psc (s : State) (c : DeviceCall) : (s.emit c).psc = s.psc := rfl
@[simp] theorem emit_run (s : State) (c : DeviceCall) : (s.emit c).run = s.run := rfl
@[simp] theorem emit_dl (s : State) (c : DeviceCall) : (s.emit c).dl = s.dl := rfl
@[simp] theorem emit_now (s : State) (c : DeviceCall) : (s.emit c).now = s.now := rfl
@[simp] theorem emit_fb (s : State) (c : DeviceCall) : (s.emit c).fb = s.fb := rfl
@[simp] theorem emit_keys (s : State) (c : DeviceCall) : (s.emit c).keys = s.keys := rfl
@[simp] theorem emit_keyReport (s : State) (c : DeviceCall) :
    (s.emit c).keyReport = s.keyReport := rfl
@[simp] theorem emit_resetSignal (s : State) (c : DeviceCall) :
    (s.emit c).resetSignal = s.resetSignal := rfl
@[simp] theorem emit_powerOffSignal (s : State) (c : DeviceCall) :
    (s.emit c).powerOffSignal = s.powerOffSignal := rfl
@[simp] theorem emit_buzzing (s : State) (c : DeviceCall) : (s.emit c).buzzing = s.buzzing := rfl
@[simp] theorem emit_calls (s : State) (c : DeviceCall) : (s.emit c).calls = c :: s.calls := rfl
@[simp] theorem emit_rngCount (s : State) (c : DeviceCall) : (s.emit c).rngCount = s.rngCount := rfl
@[simp] theorem emit_resetCount (s : State) (c : DeviceCall) :
    (s.emit c).resetCount = s.resetCount := rfl
@[simp] theorem emit_host (s : State) (c : DeviceCall) : (s.emit c).host = s.host := rfl
@[simp] theorem emit_params (s : State) (c : DeviceCall) : (s.emit c).params = s.params := rfl

/-! ## State.clearDisplay -/

@[simp] theorem clearDisplay_v (s : State) : (s.clearDisplay).v = s.v := rfl
@[simp] theorem clearDisplay_i (s : State) : (s.clearDisplay).i = s.i := rfl
@[simp] theorem clearDisplay_pc (s : State) : (s.clearDisplay).pc = s.pc := rfl
@[simp] theorem clearDisplay_dt (s : State) : (s.clearDisplay).dt = s.dt := rfl
@[simp] theorem clearDisplay_st (s : State) : (s.clearDisplay).st = s.st := rfl
@[simp] theorem clearDisplay_sp (s : State) : (s.clearDisplay).sp = s.sp := rfl
@[simp] theorem clearDisplay_stack (s : State) : (s.clearDisplay).stack = s.stack := rfl
@[simp] theorem clearDisplay_heap (s : State) : (s.clearDisplay).heap = s.heap := rfl
@[simp] theorem clearDisplay_psc (s : State) : (s.clearDisplay).psc = s.psc := rfl
@[simp] theorem clearDisplay_run (s : State) : (s.clearDisplay).run = s.run := rfl
@[simp] theorem clearDisplay_dl (s : State) : (s.clearDisplay).dl = s.dl := rfl
@[simp] theorem clearDisplay_now (s : State) : (s.clearDisplay).now = s.now := rfl
@[simp] theorem clearDisplay_fb (s : State) : (s.clearDisplay).fb = darkScreen := rfl
@[simp] theorem clearDisplay_keys (s : State) : (s.clearDisplay).keys = s.keys := rfl
@[simp] theorem clearDisplay_keyReport (s : State) : (s.clearDisplay).keyReport = s.keyReport := rfl
@[simp] theorem clearDisplay_resetSignal (s : State) :
    (s.clearDisplay).resetSignal = s.resetSignal := rfl
@[simp] theorem clearDisplay_powerOffSignal (s : State) :
    (s.clearDisplay).powerOffSignal = s.powerOffSignal := rfl
@[simp] theorem clearDisplay_buzzing (s : State) : (s.clearDisplay).buzzing = s.buzzing := rfl
@[simp] theorem clearDisplay_calls (s : State) :
    (s.clearDisplay).calls = .dispClear :: s.calls := rfl
@[simp] theorem clearDisplay_rngCount (s : State) : (s.clearDisplay).rngCount = s.rngCount := rfl
@[simp] theorem clearDisplay_resetCount (s : State) :
    (s.clearDisplay).resetCount = s.resetCount := rfl
@[simp] theorem clearDisplay_host (s : State) : (s.clearDisplay).host = s.host := rfl
@[simp] theorem clearDisplay_params (s : State) : (s.clearDisplay).params = s.params := rfl

/-! ## State.startBuzzer -/

@[simp] theorem startBuzzer_v (s : State) : (s.startBuzzer).v = s.v := rfl
@[simp] theorem startBuzzer_i (s : State) : (s.startBuzzer).i = s.i := rfl
@[simp] theorem startBuzzer_pc (s : State) : (s.startBuzzer).pc = s.pc := rfl
@[simp] theorem startBuzzer_dt (s : State) : (s.startBuzzer).dt = s.dt := rfl
@[simp] theorem startBuzzer_st (s : State) : (s.startBuzzer).st = s.st := rfl
@[simp] theorem startBuzzer_sp (s : State) : (s.startBuzzer).sp = s.sp := rfl
@[simp] theorem startBuzzer_stack (s : State) : (s.startBuzzer).stack = s.stack := rfl
@[simp] theorem startBuzzer_heap (s : State) : (s.startBuzzer).heap = s.heap := rfl
@[simp] theorem startBuzzer_psc (s : State) : (s.startBuzzer).psc = s.psc := rfl
@[simp] theorem startBuzzer_run (s : State) : (s.startBuzzer).run = s.run := rfl
@[simp] theorem startBuzzer_dl (s : State) : (s.startBuzzer).dl = s.dl := rfl
@[simp] theorem startBuzzer_now (s : State) : (s.startBuzzer).now = s.now := rfl
@[simp] theorem startBuzzer_fb (s : State) : (s.startBuzzer).fb = s.fb := rfl
@[simp] theorem startBuzzer_keys (s : State) : (s.startBuzzer).keys = s.keys := rfl
@[simp] theorem startBuzzer_keyReport (s : State) : (s.startBuzzer).keyReport = s.keyReport := rfl
@[simp] theorem startBuzzer_resetSignal (s : State) :
    (s.startBuzzer).resetSignal = s.resetSignal := rfl
@[simp] theorem startBuzzer_powerOffSignal (s : State) :
    (s.startBuzzer).powerOffSignal = s.powerOffSignal := rfl
@[simp] theorem startBuzzer_buzzing (s : State) : (s.startBuzzer).buzzing = true := rfl
@[simp] theorem startBuzzer_calls (s : State) :
    (s.startBuzzer).calls = .buzStart :: s.calls := rfl
@[simp] theorem startBuzzer_rngCount (s : State) : (s.startBuzzer).rngCount = s.rngCount := rfl
@[simp] theorem startBuzzer_resetCount (s : State) : (s.startBuzzer).resetCount = s.resetCount := rfl
@[simp] theorem startBuzzer_host (s : State) : (s.startBuzzer).host = s.host := rfl
@[simp] theorem startBuzzer_params (s : State) : (s.startBuzzer).params = s.params := rfl

/-! ## State.stopBuzzer -/

@[simp] theorem stopBuzzer_v (s : State) : (s.stopBuzzer).v = s.v := rfl
@[simp] theorem stopBuzzer_i (s : State) : (s.stopBuzzer).i = s.i := rfl
@[simp] theorem stopBuzzer_pc (s : State) : (s.stopBuzzer).pc = s.pc := rfl
@[simp] theorem stopBuzzer_dt (s : State) : (s.stopBuzzer).dt = s.dt := rfl
@[simp] theorem stopBuzzer_st (s : State) : (s.stopBuzzer).st = s.st := rfl
@[simp] theorem stopBuzzer_sp (s : State) : (s.stopBuzzer).sp = s.sp := rfl
@[simp] theorem stopBuzzer_stack (s : State) : (s.stopBuzzer).stack = s.stack := rfl
@[simp] theorem stopBuzzer_heap (s : State) : (s.stopBuzzer).heap = s.heap := rfl
@[simp] theorem stopBuzzer_psc (s : State) : (s.stopBuzzer).psc = s.psc := rfl
@[simp] theorem stopBuzzer_run (s : State) : (s.stopBuzzer).run = s.run := rfl
@[simp] theorem stopBuzzer_dl (s : State) : (s.stopBuzzer).dl = s.dl := rfl
@[simp] theorem stopBuzzer_now (s : State) : (s.stopBuzzer).now = s.now := rfl
@[simp] theorem stopBuzzer_fb (s : State) : (s.stopBuzzer).fb = s.fb := rfl
@[simp] theorem stopBuzzer_keys (s : State) : (s.stopBuzzer).keys = s.keys := rfl
@[simp] theorem stopBuzzer_keyReport (s : State) : (s.stopBuzzer).keyReport = s.keyReport := rfl
@[simp] theorem stopBuzzer_resetSignal (s : State) : (s.stopBuzzer).resetSignal = s.resetSignal := rfl
@[simp] theorem stopBuzzer_powerOffSignal (s : State) :
    (s.stopBuzzer).powerOffSignal = s.powerOffSignal := rfl
@[simp] theorem stopBuzzer_buzzing (s : State) : (s.stopBuzzer).buzzing = false := rfl
@[simp] theorem stopBuzzer_calls (s : State) : (s.stopBuzzer).calls = .buzStop :: s.calls := rfl
@[simp] theorem stopBuzzer_rngCount (s : State) : (s.stopBuzzer).rngCount = s.rngCount := rfl
@[simp] theorem stopBuzzer_resetCount (s : State) : (s.stopBuzzer).resetCount = s.resetCount := rfl
@[simp] theorem stopBuzzer_host (s : State) : (s.stopBuzzer).host = s.host := rfl
@[simp] theorem stopBuzzer_params (s : State) : (s.stopBuzzer).params = s.params := rfl

/-! ## State.endWait -/

@[simp] theorem endWait_v (s : State) (x : Reg) (since : Nat) (k : Fin 16) :
    (s.endWait x since k).v = s.v.set x.val (BitVec.ofNat 8 k.val) x.isLt := rfl
@[simp] theorem endWait_i (s : State) (x : Reg) (since : Nat) (k : Fin 16) :
    (s.endWait x since k).i = s.i := rfl
@[simp] theorem endWait_pc (s : State) (x : Reg) (since : Nat) (k : Fin 16) :
    (s.endWait x since k).pc = s.pc := rfl
@[simp] theorem endWait_dt (s : State) (x : Reg) (since : Nat) (k : Fin 16) :
    (s.endWait x since k).dt = s.dt := rfl
@[simp] theorem endWait_st (s : State) (x : Reg) (since : Nat) (k : Fin 16) :
    (s.endWait x since k).st = s.st := rfl
@[simp] theorem endWait_sp (s : State) (x : Reg) (since : Nat) (k : Fin 16) :
    (s.endWait x since k).sp = s.sp := rfl
@[simp] theorem endWait_stack (s : State) (x : Reg) (since : Nat) (k : Fin 16) :
    (s.endWait x since k).stack = s.stack := rfl
@[simp] theorem endWait_heap (s : State) (x : Reg) (since : Nat) (k : Fin 16) :
    (s.endWait x since k).heap = s.heap := rfl
@[simp] theorem endWait_psc (s : State) (x : Reg) (since : Nat) (k : Fin 16) :
    (s.endWait x since k).psc = s.psc := rfl
@[simp] theorem endWait_run (s : State) (x : Reg) (since : Nat) (k : Fin 16) :
    (s.endWait x since k).run = s.run := rfl
@[simp] theorem endWait_dl (s : State) (x : Reg) (since : Nat) (k : Fin 16) :
    (s.endWait x since k).dl = s.dl + (s.now - since) := rfl
@[simp] theorem endWait_now (s : State) (x : Reg) (since : Nat) (k : Fin 16) :
    (s.endWait x since k).now = s.now := rfl
@[simp] theorem endWait_fb (s : State) (x : Reg) (since : Nat) (k : Fin 16) :
    (s.endWait x since k).fb = s.fb := rfl
@[simp] theorem endWait_keys (s : State) (x : Reg) (since : Nat) (k : Fin 16) :
    (s.endWait x since k).keys = s.keys := rfl
@[simp] theorem endWait_keyReport (s : State) (x : Reg) (since : Nat) (k : Fin 16) :
    (s.endWait x since k).keyReport = s.keyReport := rfl
@[simp] theorem endWait_resetSignal (s : State) (x : Reg) (since : Nat) (k : Fin 16) :
    (s.endWait x since k).resetSignal = s.resetSignal := rfl
@[simp] theorem endWait_powerOffSignal (s : State) (x : Reg) (since : Nat) (k : Fin 16) :
    (s.endWait x since k).powerOffSignal = s.powerOffSignal := rfl
@[simp] theorem endWait_buzzing (s : State) (x : Reg) (since : Nat) (k : Fin 16) :
    (s.endWait x since k).buzzing = s.buzzing := rfl
@[simp] theorem endWait_calls (s : State) (x : Reg) (since : Nat) (k : Fin 16) :
    (s.endWait x since k).calls = s.calls := rfl
@[simp] theorem endWait_rngCount (s : State) (x : Reg) (since : Nat) (k : Fin 16) :
    (s.endWait x since k).rngCount = s.rngCount := rfl
@[simp] theorem endWait_resetCount (s : State) (x : Reg) (since : Nat) (k : Fin 16) :
    (s.endWait x since k).resetCount = s.resetCount := rfl
@[simp] theorem endWait_host (s : State) (x : Reg) (since : Nat) (k : Fin 16) :
    (s.endWait x since k).host = s.host := rfl
@[simp] theorem endWait_params (s : State) (x : Reg) (since : Nat) (k : Fin 16) :
    (s.endWait x since k).params = s.params := rfl

/-! ## State.endCycle -/

@[simp] theorem endCycle_v (s : State) : s.endCycle.v = s.v := rfl
@[simp] theorem endCycle_i (s : State) : s.endCycle.i = s.i := rfl
@[simp] theorem endCycle_pc (s : State) : s.endCycle.pc = s.pc := rfl
@[simp] theorem endCycle_dt (s : State) : s.endCycle.dt = s.dt := rfl
@[simp] theorem endCycle_st (s : State) : s.endCycle.st = s.st := rfl
@[simp] theorem endCycle_sp (s : State) : s.endCycle.sp = s.sp := rfl
@[simp] theorem endCycle_stack (s : State) : s.endCycle.stack = s.stack := rfl
@[simp] theorem endCycle_heap (s : State) : s.endCycle.heap = s.heap := rfl
@[simp] theorem endCycle_psc (s : State) : s.endCycle.psc = s.psc := rfl
@[simp] theorem endCycle_run (s : State) : s.endCycle.run = s.run := rfl
@[simp] theorem endCycle_dl (s : State) : s.endCycle.dl = s.dl + s.params.cyclePeriod := rfl
@[simp] theorem endCycle_now (s : State) : s.endCycle.now = s.now := rfl
@[simp] theorem endCycle_fb (s : State) : s.endCycle.fb = s.fb := rfl
@[simp] theorem endCycle_keys (s : State) : s.endCycle.keys = s.keys := rfl
@[simp] theorem endCycle_keyReport (s : State) : s.endCycle.keyReport = s.keyReport := rfl
@[simp] theorem endCycle_resetSignal (s : State) : s.endCycle.resetSignal = s.resetSignal := rfl
@[simp] theorem endCycle_powerOffSignal (s : State) : s.endCycle.powerOffSignal = s.powerOffSignal := rfl
@[simp] theorem endCycle_buzzing (s : State) : s.endCycle.buzzing = s.buzzing := rfl
@[simp] theorem endCycle_calls (s : State) : s.endCycle.calls = s.calls := rfl
@[simp] theorem endCycle_rngCount (s : State) : s.endCycle.rngCount = s.rngCount := rfl
@[simp] theorem endCycle_resetCount (s : State) : s.endCycle.resetCount = s.resetCount := rfl
@[simp] theorem endCycle_host (s : State) : s.endCycle.host = s.host := rfl
@[simp] theorem endCycle_params (s : State) : s.endCycle.params = s.params := rfl

/-! ## State.resetEngine -/

@[simp] theorem resetEngine_v (s : State) : (s.resetEngine).v = Vector.replicate 16 0 := rfl
@[simp] theorem resetEngine_i (s : State) : (s.resetEngine).i = 0 := rfl
@[simp] theorem resetEngine_pc (s : State) :
    (s.resetEngine).pc = BitVec.ofNat 16 resetVector := rfl
@[simp] theorem resetEngine_dt (s : State) : (s.resetEngine).dt = 0 := rfl
@[simp] theorem resetEngine_st (s : State) : (s.resetEngine).st = 0 := rfl
@[simp] theorem resetEngine_sp (s : State) : (s.resetEngine).sp = 0 := rfl
@[simp] theorem resetEngine_stack (s : State) :
    (s.resetEngine).stack = Vector.replicate 16 0 := rfl
@[simp] theorem resetEngine_heap (s : State) : (s.resetEngine).heap = resetHeap s.params := rfl
@[simp] theorem resetEngine_psc (s : State) :
    (s.resetEngine).psc = Config.prescalerPhase s.resetCount % s.params.clockMultiplier := rfl
@[simp] theorem resetEngine_run (s : State) : (s.resetEngine).run = s.run := rfl
@[simp] theorem resetEngine_dl (s : State) : (s.resetEngine).dl = s.now := rfl
@[simp] theorem resetEngine_now (s : State) : (s.resetEngine).now = s.now := rfl
@[simp] theorem resetEngine_fb (s : State) : (s.resetEngine).fb = darkScreen := rfl
@[simp] theorem resetEngine_keys (s : State) : (s.resetEngine).keys = s.keys := rfl
@[simp] theorem resetEngine_keyReport (s : State) : (s.resetEngine).keyReport = s.keyReport := rfl
@[simp] theorem resetEngine_resetSignal (s : State) :
    (s.resetEngine).resetSignal = (s.resetSignal && Config.keepsResetSignal s.resetCount) := rfl
@[simp] theorem resetEngine_powerOffSignal (s : State) :
    (s.resetEngine).powerOffSignal = (s.powerOffSignal && Config.keepsPowerOffSignal s.resetCount) := rfl
@[simp] theorem resetEngine_buzzing (s : State) : (s.resetEngine).buzzing = false := rfl
@[simp] theorem resetEngine_calls (s : State) :
    (s.resetEngine).calls = .buzReset :: .kbdReset :: .dispReset :: s.calls := rfl
@[simp] theorem resetEngine_rngCount (s : State) : (s.resetEngine).rngCount = s.rngCount := rfl
@[simp] theorem resetEngine_resetCount (s : State) :
    (s.resetEngine).resetCount = s.resetCount + 1 := rfl
@[simp] theorem resetEngine_host (s : State) : (s.resetEngine).host = s.host := rfl
@[simp] theorem resetEngine_params (s : State) : (s.resetEngine).params = s.params := rfl

/-! ## Reading registers after a write -/

/-- R20: every register reads back the last value written to it, and a write leaves the others alone. -/
@[simp] theorem reg_setReg (s : State) (x : Reg) (b : Byte) (r : Reg) :
    (s.setReg x b).reg r = if r = x then b else s.reg r := by
  simp only [State.reg, State.setReg, Vector.get_eq_getElem, Vector.getElem_set]
  by_cases h : r = x
  · simp [h]
  · simp [h, show ¬ x.val = r.val from fun e => h (Fin.ext e.symm)]

/-- R23: writing the flag writes register 15 alone. -/
@[simp] theorem reg_setFlag (s : State) (c : Bool) (r : Reg) :
    (s.setFlag c).reg r = if r = 15 then flagByte c else s.reg r := reg_setReg s 15 (flagByte c) r

/-- R146: each register holds its byte of the list. -/
@[simp] theorem reg_setRegs (s : State) (b : List Byte) (r : Reg) : (s.setRegs b).reg r = b.getD r.val 0 := by
  simp [State.reg, State.setRegs, Vector.get_eq_getElem]

/-- Registers do not see a state's other fields. -/
theorem reg_congr {s t : State} (h : t.v = s.v) (r : Reg) : t.reg r = s.reg r := by simp only [State.reg, h]

/-- The heap's bytes depend on the heap and the font alone. -/
theorem byteAt_congr {s t : State} (h : t.heap = s.heap) (p : t.params = s.params) (a : Nat) :
    t.byteAt a = s.byteAt a := by simp only [State.byteAt, h, p]

end Sys2Proof.Laws
end

