-- ==== Sys2Proof/Laws/Memory.lean ====
section
/-! SUPPORT. The heap: a read after a write, and that every operation keeps the canonical form. -/

namespace Sys2Proof.Laws

open Sys2Proof.Machine

variable {font : Font}

/-- A lower bound below the first cell may be lowered further. -/
theorem wfFrom_mono {m : Memory} {low low' : Nat} (h : low' ≤ low) (wf : Memory.wfFrom font low m = true) :
    Memory.wfFrom font low' m = true := by
  cases m with
  | nil => rfl
  | cons c m =>
    obtain ⟨k, b⟩ := c
    simp only [Memory.wfFrom, Bool.and_eq_true, decide_eq_true_eq] at wf ⊢
    exact ⟨⟨⟨le_trans h wf.1.1.1, wf.1.1.2⟩, wf.1.2⟩, wf.2⟩

/-- An address below every cell of a canonical heap reads as an unlisted byte. -/
theorem read_below {m : Memory} {low a : Nat} (wf : Memory.wfFrom font low m = true) (h : a < low) :
    Memory.read font m a = unlistedByte font a := by
  induction m generalizing low with
  | nil => rfl
  | cons c m ih =>
    obtain ⟨k, b⟩ := c
    simp only [Memory.wfFrom, Bool.and_eq_true, decide_eq_true_eq] at wf
    simp only [Memory.read]
    rw [if_neg (by omega), ih wf.2 (by omega)]

/-- A write below the heap's end keeps the canonical form. -/
theorem write_wfFrom {m : Memory} {low a : Nat} {b : Byte} (wf : Memory.wfFrom font low m = true)
    (hl : low ≤ a) (ha : a < heapSize) : Memory.wfFrom font low (Memory.write font m a b) = true := by
  induction m generalizing low with
  | nil =>
    simp only [Memory.write]
    split
    · rfl
    · simp [Memory.wfFrom, *]
  | cons c m ih =>
    obtain ⟨k, c⟩ := c
    have wf' := wf
    simp only [Memory.wfFrom, Bool.and_eq_true, decide_eq_true_eq] at wf
    obtain ⟨⟨⟨hk, hs⟩, hc⟩, hm⟩ := wf
    simp only [Memory.write]
    split
    · split
      · exact wf'
      · simp only [Memory.wfFrom, Bool.and_eq_true, decide_eq_true_eq]
        exact ⟨⟨⟨hl, ha⟩, ‹_›⟩, ⟨⟨by omega, hs⟩, hc⟩, hm⟩
    · split
      · subst a
        split
        · exact wfFrom_mono (by omega) hm
        · simp only [Memory.wfFrom, Bool.and_eq_true, decide_eq_true_eq]
          exact ⟨⟨⟨hl, ha⟩, ‹_›⟩, hm⟩
      · simp only [Memory.wfFrom, Bool.and_eq_true, decide_eq_true_eq]
        exact ⟨⟨⟨hk, hs⟩, hc⟩, ih hm (by omega)⟩

/-- Every write to an address of the heap keeps the canonical form. -/
theorem write_wf {m : Memory} {a : Nat} {b : Byte} (wf : Memory.wf font m = true) (ha : a < heapSize) :
    Memory.wf font (Memory.write font m a b) = true := write_wfFrom wf (Nat.zero_le a) ha

/-- A read after a write, over a canonical heap with a lower bound. -/
theorem read_writeFrom {m : Memory} {low a : Nat} {b : Byte} (wf : Memory.wfFrom font low m = true) (a' : Nat) :
    Memory.read font (Memory.write font m a b) a' = if a' = a then b else Memory.read font m a' := by
  induction m generalizing low with
  | nil =>
    by_cases hb : b = unlistedByte font a
    · by_cases h : a' = a
      · simp [Memory.write, Memory.read, hb, h]
      · simp [Memory.write, Memory.read, hb, h]
    · by_cases h : a' = a
      · simp [Memory.write, Memory.read, hb, h]
      · simp [Memory.write, Memory.read, hb, h, Ne.symm h]
  | cons c m ih =>
    obtain ⟨k, c⟩ := c
    have wf' := wf
    simp only [Memory.wfFrom, Bool.and_eq_true, decide_eq_true_eq] at wf
    obtain ⟨⟨⟨hk, hs⟩, hc⟩, hm⟩ := wf
    simp only [Memory.write]
    split
    · have hlow : Memory.read font ((k, c) :: m) a = unlistedByte font a :=
        read_below (low := k) (by simp [Memory.wfFrom, *]) ‹_›
      split
      · by_cases h : a' = a
        · rw [h, hlow]; simp [*]
        · simp [h]
      · by_cases h : a' = a
        · simp [Memory.read, h]
        · simp only [Memory.read, if_neg (Ne.symm h), if_neg h]
    · split
      · subst a
        have hlow : Memory.read font m k = unlistedByte font k := read_below hm (by omega)
        split
        · by_cases h : a' = k
          · rw [h, hlow]; simp [*]
          · simp [h, Memory.read, Ne.symm h]
        · by_cases h : a' = k
          · simp [h, Memory.read]
          · simp [h, Memory.read, Ne.symm h]
      · simp only [Memory.read]
        by_cases h : a' = a
        · subst a'
          rw [if_neg (by omega), ih hm]
          simp
        · by_cases hk' : k = a'
          · subst hk'
            simp [h]
          · simp only [if_neg hk', ih hm]

/-- A read after a write to the same place gives the value written; a write leaves every other place alone. -/
theorem read_write {m : Memory} {a : Nat} {b : Byte} (wf : Memory.wf font m = true) (a' : Nat) :
    Memory.read font (Memory.write font m a b) a' = if a' = a then b else Memory.read font m a' :=
  read_writeFrom wf a'

/-- Writing a list inside the heap keeps the canonical form. -/
theorem writeList_wf {m : Memory} {a : Nat} {bs : List Byte} (wf : Memory.wf font m = true)
    (h : a + bs.length ≤ heapSize) : Memory.wf font (Memory.writeList font m a bs) = true := by
  induction bs generalizing m a with
  | nil => exact wf
  | cons b bs ih =>
    simp only [List.length_cons] at h
    exact ih (write_wf wf (by omega)) (by omega)

/-- A read after a list was written inside the heap: the list's bytes in its range, the old bytes elsewhere. -/
theorem read_writeList {m : Memory} {a : Nat} {bs : List Byte} (wf : Memory.wf font m = true)
    (h : a + bs.length ≤ heapSize) (a' : Nat) :
    Memory.read font (Memory.writeList font m a bs) a' =
      if a ≤ a' ∧ a' < a + bs.length then bs.getD (a' - a) 0 else Memory.read font m a' := by
  induction bs generalizing m a with
  | nil =>
    rw [if_neg (by simp)]
    rfl
  | cons b bs ih =>
    simp only [List.length_cons] at h ⊢
    rw [Memory.writeList, ih (write_wf wf (by omega)) (by omega), read_write wf]
    by_cases h1 : a' = a
    · subst h1
      simp
    · by_cases h2 : a + 1 ≤ a' ∧ a' < a + 1 + bs.length
      · rw [if_pos h2, if_pos (by omega), show a' - a = (a' - (a + 1)) + 1 by omega]
        simp
      · rw [if_neg h2, if_neg h1, if_neg (by omega)]

/-- The cleared heap is canonical. -/
theorem wf_nil : Memory.wf font [] = true := rfl

/-- The heap `State.reset` starts from is canonical. -/
theorem reset_heap_wf : Memory.wf State.reset.params.font State.reset.heap = true := rfl

/-- The heap a reset leaves is canonical when the ROM fits. -/
theorem resetHeap_wf {p : Params} (h : p.rom.length ≤ maxRomLength) : Memory.wf p.font (resetHeap p) = true :=
  writeList_wf wf_nil (by simp only [resetVector, maxRomLength, heapSize] at *; omega)

/-- R61: what the heap holds after a reset. -/
theorem read_resetHeap {p : Params} (h : p.rom.length ≤ maxRomLength) (a : Nat) :
    Memory.read p.font (resetHeap p) a =
      if resetVector ≤ a ∧ a < resetVector + p.rom.length then p.rom.getD (a - resetVector) 0
      else unlistedByte p.font a :=
  read_writeList wf_nil (by simp only [resetVector, maxRomLength, heapSize] at *; omega) a

end Sys2Proof.Laws
end

