-- ==== Sys2Proof/Laws/Ops.lean ====
section
/-! SUPPORT. One lemma per shared operation: everything it can do. -/

namespace Sys2Proof.Laws

open Sys2Proof.Machine

/-- The outcome of an operation is a next state exactly when the operation succeeds. -/
@[simp] theorem finish_next {e : Except Fault State} {t : State} : finish e = .next t ↔ e = .ok t := by
  cases e <;> simp [finish, raise]

/-- A skip whose condition fails changes nothing; one whose condition holds adds 2 to `PC`. -/
theorem skipIf_eq (s : State) (c : Bool) : s.skipIf c = { s with pc := if c then s.pc + 2 else s.pc } := by
  cases c <;> rfl

/-- R51, in words of arithmetic. -/
@[simp] theorem inBounds_iff (addr len : Nat) : inBounds addr len = true ↔ addr + len ≤ heapSize := by
  simp [inBounds]

/-- R52: what a read answers: in bounds, the bytes; else the fault. -/
theorem memRead_eq (s : State) (addr n : Nat) :
    memRead s addr n = if addr + n ≤ heapSize then .ok ((List.range n).map (fun j => s.byteAt (addr + j)))
      else .error (.outOfBounds addr n) := by simp [memRead]

/-- R53: what a write answers: in bounds, the heap written; else the fault. -/
theorem memWrite_eq (s : State) (addr : Nat) (bs : List Byte) :
    memWrite s addr bs = if addr + bs.length ≤ heapSize
      then .ok { s with heap := Memory.writeList s.params.font s.heap addr bs }
      else .error (.outOfBounds addr bs.length) := by simp [memWrite]

/-- R53: if a write succeeds, it was in bounds and changed the heap alone: its bytes lie in the range, every other byte
is as before, and the heap stays canonical. -/
theorem memWrite_ok {s t : State} {addr : Nat} {bs : List Byte} (h : memWrite s addr bs = .ok t)
    (wf : Memory.wf s.params.font s.heap = true) :
    addr + bs.length ≤ heapSize ∧ t = { s with heap := t.heap } ∧ Memory.wf t.params.font t.heap = true ∧
      ∀ a, t.byteAt a = if addr ≤ a ∧ a < addr + bs.length then bs.getD (a - addr) 0 else s.byteAt a := by
  rw [memWrite_eq] at h
  split at h
  · cases h
    exact ⟨‹_›, rfl, writeList_wf wf ‹_›, read_writeList wf ‹_›⟩
  · cases h

/-- R57: what a push answers. -/
theorem push_eq (s : State) (w : Word) :
    push s w = if h : s.sp.val < 16
      then .ok { s with stack := s.stack.set s.sp.val w h, sp := ⟨s.sp.val + 1, Nat.succ_lt_succ h⟩ }
      else .error .stackOverflow := rfl

/-- R57: if a push succeeds, the stack had room, `SP` is one higher, and the entry at the old `SP` holds the value. -/
theorem push_ok {s t : State} {w : Word} (h : push s w = .ok t) :
    s.sp.val < 16 ∧ t.sp.val = s.sp.val + 1 ∧ t = { s with stack := t.stack, sp := t.sp } ∧
      ∀ k : Fin 16, t.stack.get k = if k.val = s.sp.val then w else s.stack.get k := by
  rw [push_eq] at h
  split at h
  · cases h
    refine ⟨‹_›, rfl, rfl, fun k => ?_⟩
    simp only [Vector.get_eq_getElem, Vector.getElem_set, eq_comm]
  · cases h

/-- R58: if a pop succeeds, the stack held an entry, `SP` is one lower, nothing else changed, and the value is the top
entry. -/
theorem pop_ok {s t : State} {w : Word} (h : pop s = .ok (w, t)) :
    0 < s.sp.val ∧ s.sp.val = t.sp.val + 1 ∧ t = { s with sp := t.sp } ∧
      ∃ k : Fin 16, k.val = t.sp.val ∧ w = s.stack.get k := by
  unfold pop at h
  split at h
  · cases h
  · cases h
    exact ⟨by omega, by simp only; omega, rfl, _, rfl, rfl⟩

/-- R54: what a fetch answers. -/
theorem fetch_eq (s : State) :
    fetch s = if s.pc.toNat + 2 ≤ heapSize
      then .ok (wordOfBytes (s.byteAt s.pc.toNat) (s.byteAt (s.pc.toNat + 1)))
      else .error (.outOfBounds s.pc.toNat 2) := by simp [fetch]

/-- R127, R129: what the common part of SUB and SUBN answers. -/
theorem subtractInto_eq (x : Reg) (a b : Byte) (s : State) :
    subtractInto x a b s = if a.toNat < b.toNat ∧ s.params.subUnderflow = .fault then .fault .arithmeticUnderflow
      else .next (s.setReg x (a - b)) := by
  simp [subtractInto, raise, strictlyGreater]

/-- R160, R161, R166: what the key test answers. -/
theorem skipOnKey_eq (wanted : Bool) (b : Byte) (s : State) :
    skipOnKey wanted b s = if h : b.toNat < 16
      then .next ((s.emit (.kbdPressed ⟨b.toNat, h⟩)).skipIf (s.keys.get ⟨b.toNat, h⟩ == wanted))
      else .fault (.badKeyIndex b) := by
  unfold skipOnKey keyNumber
  split <;> split at * <;> simp_all [raise]

/-- R180: `DT` after a tick. -/
theorem tickDelay_eq (s : State) : s.tickDelay = { s with dt := if s.dt = 0 then 0 else s.dt - 1 } := by
  cases s
  unfold State.tickDelay
  split <;> simp_all

/-- R180, R183: the sound half of a tick: `ST`, and `BUZ.stop()` when it goes from 1 to 0. -/
theorem tickSound_eq (s : State) :
    s.tickSound = { s with
      st := if s.st = 0 then 0 else s.st - 1
      calls := if s.st = 1 then .buzStop :: s.calls else s.calls
      buzzing := if s.st = 1 then false else s.buzzing } := by
  unfold State.tickSound
  by_cases h : s.st = 0
  · cases s
    simp_all
  · by_cases h1 : s.st = 1
    · rw [if_pos h, if_pos h1, if_neg h, if_pos h1, if_pos h1]
      rfl
    · rw [if_pos h, if_neg h1, if_neg h, if_neg h1, if_neg h1]

/-- R180: the whole of a tick. -/
theorem tick_eq (s : State) :
    s.tick = { s with
      dt := if s.dt = 0 then 0 else s.dt - 1
      st := if s.st = 0 then 0 else s.st - 1
      calls := if s.st = 1 then .buzStop :: s.calls else s.calls
      buzzing := if s.st = 1 then false else s.buzzing } := by
  rw [State.tick, tickSound_eq, tickDelay_eq]

/-- R26 step 1: in a cycle whose `PSC` is 0 the timers tick, in any other they stand; `PSC` moves on in both. -/
theorem prescale_cases (s : State) :
    (s.psc = 0 ∧ s.prescale = { s.tick with psc := (s.psc + 1) % s.params.clockMultiplier }) ∨
    (s.psc ≠ 0 ∧ s.prescale = { s with psc := (s.psc + 1) % s.params.clockMultiplier }) := by
  unfold State.prescale
  by_cases h : s.psc = 0
  · exact .inl ⟨h, by simp [h]⟩
  · exact .inr ⟨h, by simp [h]⟩

/-- R26 step 1, field by field. -/
theorem prescale_eq (s : State) :
    s.prescale = { s with
      psc := (s.psc + 1) % s.params.clockMultiplier
      dt := if s.psc = 0 ∧ s.dt ≠ 0 then s.dt - 1 else s.dt
      st := if s.psc = 0 ∧ s.st ≠ 0 then s.st - 1 else s.st
      calls := if s.psc = 0 ∧ s.st = 1 then .buzStop :: s.calls else s.calls
      buzzing := if s.psc = 0 ∧ s.st = 1 then false else s.buzzing } := by
  obtain ⟨h, e⟩ | ⟨h, e⟩ := prescale_cases s
  · rw [e, tick_eq]
    simp only [h, true_and, ne_eq]
    congr 1 <;> split <;> simp_all
  · rw [e]
    simp [h]

/-- R177: the three things a poll can do. -/
theorem poll_cases (s : State) :
    (s.powerOffSignal = true ∧
      s.poll = { s with calls := .kbdPowerOffSignal :: s.calls, powerOffSignal := false, run := .halted }) ∨
    (s.powerOffSignal = false ∧ s.resetSignal = true ∧
      s.poll = ({ s with calls := .kbdResetSignal :: .kbdPowerOffSignal :: s.calls, resetSignal := false } : State).resetEngine) ∨
    (s.powerOffSignal = false ∧ s.resetSignal = false ∧
      s.poll = { s with calls := .kbdResetSignal :: .kbdPowerOffSignal :: s.calls }) := by
  cases hp : s.powerOffSignal with
  | true => exact .inl ⟨rfl, by simp [State.poll, hp, State.emit]⟩
  | false =>
    cases hr : s.resetSignal with
    | true => exact .inr (.inl ⟨rfl, rfl, by simp [State.poll, hp, hr, State.emit]⟩)
    | false => exact .inr (.inr ⟨rfl, rfl, by simp [State.poll, hp, hr, State.emit]⟩)

/-- R151, R155: what a draw does to the state. -/
theorem drawSprite_eq (s : State) (sprite : List Byte) (x0 y0 : Byte) :
    drawSprite s sprite x0 y0 =
      ({ s with calls := .dispDraw sprite x0 y0 :: s.calls, fb := (s.fb.draw sprite x0 y0).1 },
        (s.fb.draw sprite x0 y0).2) := rfl

/-- R63, R200: what a load answers: the engine reset with the new ROM, or the fault. -/
theorem load_eq (rom : List Byte) (s : State) :
    load rom s = if rom.length ≤ maxRomLength
      then .next { ({ s with params := { s.params with rom := rom } } : State).resetEngine with run := .running }
      else .fault (.outOfBounds resetVector rom.length) := rfl

end Sys2Proof.Laws
end

