-- ==== Sys2Proof/Laws/KeyWait.lean ====
section
/-! SUPPORT. Everything a key wait can do (44_keyboard_timers.md R162, 70_reset_and_hazards.md R218). -/

namespace Sys2Proof.Laws

open Sys2Proof.Machine

/-- A report that stands is taken at once. -/
@[simp] theorem takeReport_some {s : State} {k : Fin 16} (h : s.keyReport = some k) :
    s.takeReport = some (k, { s with keyReport := none }) := by simp [State.takeReport, h]

/-- Without a report there is nothing to take. -/
@[simp] theorem takeReport_none {s : State} (h : s.keyReport = none) : s.takeReport = none := by
  simp [State.takeReport, h]

/-- A wait with a report standing is over before any turn of the host. -/
theorem awaitKey_reported {s : State} {k : Fin 16} (h : s.keyReport = some k) (turns : List HostTurn) :
    awaitKey turns s = some (k, { s with keyReport := none }) := by
  cases turns <;> simp [awaitKey, takeReport_some h]

/-- A wait without a report goes on with the host's next turn. -/
theorem awaitKey_cons {s : State} (h : s.keyReport = none) (turn : HostTurn) (rest : List HostTurn) :
    awaitKey (turn :: rest) s = awaitKey rest (({ s with host := rest } : State).hostActs turn) := by
  simp [awaitKey, takeReport_none h]

/-- R162: with no report and none coming, the wait has no end. -/
theorem awaitKey_never {turns : List HostTurn} {s : State} (h : s.keyReport = none)
    (hn : ∀ k, HostTurn.reportKey k ∉ turns) : awaitKey turns s = none := by
  induction turns generalizing s with
  | nil => simp [awaitKey, takeReport_none h]
  | cons turn rest ih =>
    rw [awaitKey_cons h]
    have hr : ∀ k, HostTurn.reportKey k ∉ rest := fun k hk => hn k (List.mem_cons_of_mem _ hk)
    cases turn with
    | reportKey k => exact absurd List.mem_cons_self (hn k)
    | setKeys p => exact ih h hr
    | raiseReset => exact ih h hr
    | raisePowerOff => exact ih h hr
    | clock e d => exact ih h hr

/-- R162, R222: what a wait brings when the host's turns up to the first report are `turns`: the key reported, with the
turns done and nothing else changed. -/
theorem awaitKey_answered {turns rest : List HostTurn} {k : Fin 16} {s : State} (h : s.keyReport = none)
    (hn : ∀ j, HostTurn.reportKey j ∉ turns) :
    awaitKey (turns ++ .reportKey k :: rest) s = some (k, { s with
      host := rest
      keys := keysAfter s.keys turns
      resetSignal := s.resetSignal || decide (HostTurn.raiseReset ∈ turns)
      powerOffSignal := s.powerOffSignal || decide (HostTurn.raisePowerOff ∈ turns)
      now := s.now + elapsedIn turns }) := by
  induction turns generalizing s with
  | nil =>
    rw [List.nil_append, awaitKey_cons h, awaitKey_reported (k := k) rfl]
    cases s
    simp_all [State.hostActs, keysAfter, elapsedIn]
  | cons turn more ih =>
    rw [List.cons_append, awaitKey_cons h]
    have hr : ∀ j, HostTurn.reportKey j ∉ more := fun j hj => hn j (List.mem_cons_of_mem _ hj)
    cases turn with
    | reportKey j => exact absurd List.mem_cons_self (hn j)
    | setKeys p => exact Eq.trans (ih (by exact h) hr) (by simp [State.hostActs, keysAfter, elapsedIn])
    | raiseReset => exact Eq.trans (ih (by exact h) hr) (by simp [State.hostActs, keysAfter, elapsedIn])
    | raisePowerOff => exact Eq.trans (ih (by exact h) hr) (by simp [State.hostActs, keysAfter, elapsedIn])
    | clock e d =>
      exact Eq.trans (ih (by exact h) hr) (by simp [State.hostActs, keysAfter, elapsedIn, Nat.add_assoc])

/-- Whatever the host's turns are, a wait that ends has changed the keyboard's inputs, the clock and the host's turns
alone; the clock has not gone back and no signal has been lost. -/
theorem awaitKey_frame {turns : List HostTurn} {s t : State} {k : Fin 16} (h : awaitKey turns s = some (k, t)) :
    t = { s with
      keys := t.keys, keyReport := none, resetSignal := t.resetSignal, powerOffSignal := t.powerOffSignal
      now := t.now, host := t.host } ∧
    s.now ≤ t.now ∧ (s.resetSignal = true → t.resetSignal = true) ∧
      (s.powerOffSignal = true → t.powerOffSignal = true) := by
  induction turns generalizing s with
  | nil =>
    cases hk : s.keyReport with
    | none => simp [awaitKey, takeReport_none hk] at h
    | some j =>
      rw [awaitKey_reported hk] at h
      cases h
      exact ⟨rfl, le_refl _, id, id⟩
  | cons turn rest ih =>
    cases hk : s.keyReport with
    | none =>
      rw [awaitKey_cons hk] at h
      obtain ⟨e, hn, hr, hp⟩ := ih h
      cases turn with
      | clock a b => exact ⟨e, Nat.le_trans (Nat.le_add_right _ _) hn, hr, hp⟩
      | setKeys p => exact ⟨e, hn, hr, hp⟩
      | reportKey j => exact ⟨e, hn, hr, hp⟩
      | raiseReset => exact ⟨e, hn, fun _ => hr rfl, hp⟩
      | raisePowerOff => exact ⟨e, hn, hr, fun _ => hp rfl⟩
    | some j =>
      rw [awaitKey_reported hk] at h
      cases h
      exact ⟨rfl, le_refl _, id, id⟩

/-- R162: LD_KEY ends with the key its wait brings. -/
theorem execLdKey_next {x : Reg} {s t : State} {k : Fin 16} (h : awaitKey s.host (s.emit .kbdWaitKey) = some (k, t)) :
    execLdKey x s = .next (t.endWait x s.now k) := by simp only [execLdKey, h]

/-- R162: LD_KEY whose wait brings no key has no successor. -/
theorem execLdKey_refused {x : Reg} {s : State} (h : awaitKey s.host (s.emit .kbdWaitKey) = none) :
    execLdKey x s = .refused .waitingForKey := by simp only [execLdKey, h]

/-- R162, R218: what LD_KEY can do: it ends with a key the wait brought, or it has no successor. -/
theorem execLdKey_cases (x : Reg) (s : State) :
    (∃ k t, awaitKey s.host (s.emit .kbdWaitKey) = some (k, t) ∧ execLdKey x s = .next (t.endWait x s.now k)) ∨
    (awaitKey s.host (s.emit .kbdWaitKey) = none ∧ execLdKey x s = .refused .waitingForKey) := by
  cases h : awaitKey s.host (s.emit .kbdWaitKey) with
  | none => exact .inr ⟨rfl, execLdKey_refused h⟩
  | some r => exact .inl ⟨r.1, r.2, rfl, execLdKey_next h⟩

end Sys2Proof.Laws
end

