-- ==== Sys2Proof/Laws/PerInstr.lean ====
section
/-! SUPPORT. The laws stated per instruction: every encoded instruction carries the fixed bits of its row of the opcode
table (30_encoding.md R82, R85). -/

namespace Sys2Proof.Laws.RowMatch

/-- The fixed bits of an instruction's row: the high bit, the low bit and the value of each fixed part of the word
(R85's match, read through its mask). -/
def fixedBits : Instr → List (Nat × Nat × Nat)
  | .cls => [(15, 0, 0xE0)]
  | .ret => [(15, 0, 0xEE)]
  | .sys _ => [(15, 12, 0x0)]
  | .jp _ => [(15, 12, 0x1)]
  | .call _ => [(15, 12, 0x2)]
  | .seImm _ _ => [(15, 12, 0x3)]
  | .sneImm _ _ => [(15, 12, 0x4)]
  | .seReg _ _ => [(3, 0, 0x0), (15, 12, 0x5)]
  | .ldImm _ _ => [(15, 12, 0x6)]
  | .addImm _ _ => [(15, 12, 0x7)]
  | .ldReg _ _ => [(3, 0, 0x0), (15, 12, 0x8)]
  | .orReg _ _ => [(3, 0, 0x1), (15, 12, 0x8)]
  | .andReg _ _ => [(3, 0, 0x2), (15, 12, 0x8)]
  | .xorReg _ _ => [(3, 0, 0x3), (15, 12, 0x8)]
  | .addReg _ _ => [(3, 0, 0x4), (15, 12, 0x8)]
  | .sub _ _ => [(3, 0, 0x5), (15, 12, 0x8)]
  | .shr _ _ => [(3, 0, 0x6), (15, 12, 0x8)]
  | .subn _ _ => [(3, 0, 0x7), (15, 12, 0x8)]
  | .shl _ _ => [(3, 0, 0xE), (15, 12, 0x8)]
  | .sneReg _ _ => [(3, 0, 0x0), (15, 12, 0x9)]
  | .ldI _ => [(15, 12, 0xA)]
  | .jpV0 _ => [(15, 12, 0xB)]
  | .rnd _ _ => [(15, 12, 0xC)]
  | .drw _ _ _ => [(15, 12, 0xD)]
  | .skp _ => [(7, 0, 0x9E), (15, 12, 0xE)]
  | .sknp _ => [(7, 0, 0xA1), (15, 12, 0xE)]
  | .ldVxDt _ => [(7, 0, 0x7), (15, 12, 0xF)]
  | .ldKey _ => [(7, 0, 0xA), (15, 12, 0xF)]
  | .ldDt _ => [(7, 0, 0x15), (15, 12, 0xF)]
  | .ldSt _ => [(7, 0, 0x18), (15, 12, 0xF)]
  | .addI _ => [(7, 0, 0x1E), (15, 12, 0xF)]
  | .ldFont _ => [(7, 0, 0x29), (15, 12, 0xF)]
  | .ldBcd _ => [(7, 0, 0x33), (15, 12, 0xF)]
  | .stRegs _ => [(7, 0, 0x55), (15, 12, 0xF)]
  | .ldRegs _ => [(7, 0, 0x65), (15, 12, 0xF)]

/-- The encoded instruction carries its row's fixed bits. -/
def Statement (i : Instr) : Prop := ∀ f ∈ fixedBits i, slice (encode i) f.1 f.2.1 = f.2.2

theorem cls : Statement .cls := by unfold Statement; decide

theorem ret : Statement .ret := by unfold Statement; decide

theorem sys (nnn : BitVec 12) : Statement (.sys nnn) := by
  have := nnn.isLt
  simp [Statement, fixedBits, encode, slice_assembleA]
  all_goals omega

theorem jp (nnn : BitVec 12) : Statement (.jp nnn) := by
  have := nnn.isLt
  simp [Statement, fixedBits, encode, slice_assembleA]
  all_goals omega

theorem call (nnn : BitVec 12) : Statement (.call nnn) := by
  have := nnn.isLt
  simp [Statement, fixedBits, encode, slice_assembleA]
  all_goals omega

theorem seImm (x : Reg) (kk : Byte) : Statement (.seImm x kk) := by
  have := x.isLt; have := kk.isLt
  simp [Statement, fixedBits, encode, slice_assembleXK]
  all_goals omega

theorem sneImm (x : Reg) (kk : Byte) : Statement (.sneImm x kk) := by
  have := x.isLt; have := kk.isLt
  simp [Statement, fixedBits, encode, slice_assembleXK]
  all_goals omega

theorem seReg (x : Reg) (y : Reg) : Statement (.seReg x y) := by
  have := x.isLt; have := y.isLt
  simp [Statement, fixedBits, encode, slice_assembleXY]
  all_goals omega

theorem ldImm (x : Reg) (kk : Byte) : Statement (.ldImm x kk) := by
  have := x.isLt; have := kk.isLt
  simp [Statement, fixedBits, encode, slice_assembleXK]
  all_goals omega

theorem addImm (x : Reg) (kk : Byte) : Statement (.addImm x kk) := by
  have := x.isLt; have := kk.isLt
  simp [Statement, fixedBits, encode, slice_assembleXK]
  all_goals omega

theorem ldReg (x : Reg) (y : Reg) : Statement (.ldReg x y) := by
  have := x.isLt; have := y.isLt
  simp [Statement, fixedBits, encode, slice_assembleXY]
  all_goals omega

theorem orReg (x : Reg) (y : Reg) : Statement (.orReg x y) := by
  have := x.isLt; have := y.isLt
  simp [Statement, fixedBits, encode, slice_assembleXY]
  all_goals omega

theorem andReg (x : Reg) (y : Reg) : Statement (.andReg x y) := by
  have := x.isLt; have := y.isLt
  simp [Statement, fixedBits, encode, slice_assembleXY]
  all_goals omega

theorem xorReg (x : Reg) (y : Reg) : Statement (.xorReg x y) := by
  have := x.isLt; have := y.isLt
  simp [Statement, fixedBits, encode, slice_assembleXY]
  all_goals omega

theorem addReg (x : Reg) (y : Reg) : Statement (.addReg x y) := by
  have := x.isLt; have := y.isLt
  simp [Statement, fixedBits, encode, slice_assembleXY]
  all_goals omega

theorem sub (x : Reg) (y : Reg) : Statement (.sub x y) := by
  have := x.isLt; have := y.isLt
  simp [Statement, fixedBits, encode, slice_assembleXY]
  all_goals omega

theorem shr (x : Reg) (y : Reg) : Statement (.shr x y) := by
  have := x.isLt; have := y.isLt
  simp [Statement, fixedBits, encode, slice_assembleXY]
  all_goals omega

theorem subn (x : Reg) (y : Reg) : Statement (.subn x y) := by
  have := x.isLt; have := y.isLt
  simp [Statement, fixedBits, encode, slice_assembleXY]
  all_goals omega

theorem shl (x : Reg) (y : Reg) : Statement (.shl x y) := by
  have := x.isLt; have := y.isLt
  simp [Statement, fixedBits, encode, slice_assembleXY]
  all_goals omega

theorem sneReg (x : Reg) (y : Reg) : Statement (.sneReg x y) := by
  have := x.isLt; have := y.isLt
  simp [Statement, fixedBits, encode, slice_assembleXY]
  all_goals omega

theorem ldI (nnn : BitVec 12) : Statement (.ldI nnn) := by
  have := nnn.isLt
  simp [Statement, fixedBits, encode, slice_assembleA]
  all_goals omega

theorem jpV0 (nnn : BitVec 12) : Statement (.jpV0 nnn) := by
  have := nnn.isLt
  simp [Statement, fixedBits, encode, slice_assembleA]
  all_goals omega

theorem rnd (x : Reg) (kk : Byte) : Statement (.rnd x kk) := by
  have := x.isLt; have := kk.isLt
  simp [Statement, fixedBits, encode, slice_assembleXK]
  all_goals omega

theorem drw (x : Reg) (y : Reg) (n : Fin 16) : Statement (.drw x y n) := by
  have := x.isLt; have := y.isLt; have := n.isLt
  simp [Statement, fixedBits, encode, slice_assembleXY]
  all_goals omega

theorem skp (x : Reg) : Statement (.skp x) := by
  have := x.isLt
  simp [Statement, fixedBits, encode, slice_assembleXK]
  all_goals omega

theorem sknp (x : Reg) : Statement (.sknp x) := by
  have := x.isLt
  simp [Statement, fixedBits, encode, slice_assembleXK]
  all_goals omega

theorem ldVxDt (x : Reg) : Statement (.ldVxDt x) := by
  have := x.isLt
  simp [Statement, fixedBits, encode, slice_assembleXK]
  all_goals omega

theorem ldKey (x : Reg) : Statement (.ldKey x) := by
  have := x.isLt
  simp [Statement, fixedBits, encode, slice_assembleXK]
  all_goals omega

theorem ldDt (x : Reg) : Statement (.ldDt x) := by
  have := x.isLt
  simp [Statement, fixedBits, encode, slice_assembleXK]
  all_goals omega

theorem ldSt (x : Reg) : Statement (.ldSt x) := by
  have := x.isLt
  simp [Statement, fixedBits, encode, slice_assembleXK]
  all_goals omega

theorem addI (x : Reg) : Statement (.addI x) := by
  have := x.isLt
  simp [Statement, fixedBits, encode, slice_assembleXK]
  all_goals omega

theorem ldFont (x : Reg) : Statement (.ldFont x) := by
  have := x.isLt
  simp [Statement, fixedBits, encode, slice_assembleXK]
  all_goals omega

theorem ldBcd (x : Reg) : Statement (.ldBcd x) := by
  have := x.isLt
  simp [Statement, fixedBits, encode, slice_assembleXK]
  all_goals omega

theorem stRegs (x : Reg) : Statement (.stRegs x) := by
  have := x.isLt
  simp [Statement, fixedBits, encode, slice_assembleXK]
  all_goals omega

theorem ldRegs (x : Reg) : Statement (.ldRegs x) := by
  have := x.isLt
  simp [Statement, fixedBits, encode, slice_assembleXK]
  all_goals omega

end Sys2Proof.Laws.RowMatch
end

