-- ==== Sys2Proof/Laws/Step.lean ====
section
/-! SUPPORT. Everything a step can do. -/

namespace Sys2Proof.Laws

open Sys2Proof.Machine

/-- A cycle that answers a next state fetched a word, decoded it, and ran its instruction. -/
theorem cycle_next {s t : State} (h : cycle s = .next t) :
    ∃ w i, fetch s.prescale = .ok w ∧ decode w = .ok i ∧ exec i s.prescale.advance = .next t := by
  unfold cycle at h
  split at h
  · cases h
  · split at h
    · cases h
    · exact ⟨_, _, ‹_›, ‹_›, h⟩

/-- A cycle whose word is fetched and decoded is the instruction's meaning. -/
theorem cycle_eq {s : State} {w : Word} {i : Instr} (hf : fetch s.prescale = .ok w) (hd : decode w = .ok i) :
    cycle s = exec i s.prescale.advance := by
  simp only [cycle, hf, hd]

/-- Closing a cycle keeps its outcome and advances the deadline. -/
theorem closeCycle_next {r : Result} {t : State} (h : closeCycle r = .next t) :
    ∃ u, r = .next u ∧ t = u.endCycle := by
  cases r with
  | next u => exact ⟨u, rfl, by cases h; rfl⟩
  | fault f => cases h
  | refused q => cases h

/-- R216: the two things an iteration of the loop can be: a cycle, or a sleep and a poll. -/
theorem loopTurn_next {time sleep : Nat} {s t : State} (h : loopTurn time sleep s = .next t) :
    (s.dl ≤ time ∧ ∃ u, cycle { s with now := time } = .next u ∧ t = u.endCycle) ∨
    (time < s.dl ∧ t = ({ s with now := time + max sleep s.params.oneMillisecond } : State).poll) := by
  unfold loopTurn at h
  split at h
  · exact .inl ⟨‹_›, closeCycle_next h⟩
  · exact .inr ⟨by omega, by cases h; rfl⟩

/-- The turns of the environment that are not the engine's move. -/
theorem takeTurn_next {h : HostTurn} {s t : State} (e : takeTurn h s = .next t) :
    (∃ p, h = .setKeys p ∧ t = { s with keys := p }) ∨
    (∃ k, h = .reportKey k ∧ t = { s with keyReport := some k }) ∨
    (h = .raiseReset ∧ t = { s with resetSignal := true }) ∨
    (h = .raisePowerOff ∧ t = { s with powerOffSignal := true }) ∨
    (∃ elapsed sleep, h = .clock elapsed sleep ∧ loopTurn (s.now + elapsed) sleep s = .next t) := by
  cases h with
  | setKeys p => exact .inl ⟨p, rfl, by cases e; rfl⟩
  | reportKey k => exact .inr (.inl ⟨k, rfl, by cases e; rfl⟩)
  | raiseReset => exact .inr (.inr (.inl ⟨rfl, by cases e; rfl⟩))
  | raisePowerOff => exact .inr (.inr (.inr (.inl ⟨rfl, by cases e; rfl⟩)))
  | clock a b => exact .inr (.inr (.inr (.inr ⟨a, b, rfl, e⟩)))

/-- A step that answers a next state was taken by a running machine: the engine's own move when the host has nothing
more to do, else the host's next turn. -/
theorem step_next {s t : State} (h : step s = .next t) :
    s.run = .running ∧
    ((s.host = [] ∧ loopTurn (max s.now s.dl) 0 s = .next t) ∨
     (∃ turn rest, s.host = turn :: rest ∧ takeTurn turn { s with host := rest } = .next t)) := by
  unfold step engineStep at h
  split at h
  · refine ⟨‹_›, ?_⟩
    unfold runningStep at h
    split at h
    · exact .inl ⟨‹_›, h⟩
    · exact .inr ⟨_, _, ‹_›, h⟩
  · cases h
  · cases h

end Sys2Proof.Laws
end

