-- ==== Sys2Proof/Tests/Slice0.lean ====
section
/-! SUPPORT. Tests of the model on values the spec works out (95_test_vectors.md, named by their ids there), and a
witness of the hypotheses of every statement that has any. -/

namespace Sys2Proof.Tests

open Sys2Proof.Machine

/-! ## Helpers -/

/-- What one reads of a step's next state. -/
def look {α : Type} (r : Result) (f : State → α) : Option α :=
  match r with
  | .next t => some (f t)
  | .fault _ => none
  | .refused _ => none

/-- The fault a step stops with. -/
def stop (r : Result) : Option Fault :=
  match r with
  | .fault f => some f
  | .next _ => none
  | .refused _ => none

/-- The refusal a step stops with. -/
def refusal (r : Result) : Option Refusal :=
  match r with
  | .refused q => some q
  | .next _ => none
  | .fault _ => none

/-- One cycle from a state with an instruction's word placed at `PC`. -/
def run1 (s : State) (w : Nat) : Result := step (s.withFetchWord 16 w)

/-- The state after reset with some registers set. -/
def withRegs (l : List (Reg × Byte)) : State := l.foldl (fun s p => s.setReg p.1 p.2) State.reset

/-- A state under SUB_UNDERFLOW = `fault`. -/
def faulting (s : State) : State := { s with params := { s.params with subUnderflow := .fault } }

/-- The state after reset with `I` set. -/
def withI (w : Word) : State := State.reset.setI w

/-- Registers 0 to 15 hold 0x10 to 0x1F. -/
def counted : Vector Byte 16 := Vector.ofFn (fun r => BitVec.ofNat 8 (0x10 + r.val))

/-- A running state whose next cycle is due, with two bytes in the heap at its `PC`. -/
def atPc (pc : Word) (high low : Byte) : State :=
  { State.reset with pc := pc, heap := [(pc.toNat, high), (pc.toNat + 1, low)] }

/-! ## Well-formedness and decoding -/

/-- R86: SYS is not the word of CLS. -/
theorem test_wellFormed_refuses_sys_cls : WellFormed (.sys 0x0E0) = false := by decide

/-- R86: SYS is not the word of RET. -/
theorem test_wellFormed_refuses_sys_ret : WellFormed (.sys 0x0EE) = false := by decide

/-- R86: the words beside them are SYS. -/
theorem test_wellFormed_accepts_sys : WellFormed (.sys 0x0E1) = true ∧ WellFormed (.sys 0xFFF) = true := by decide

/-- R85, class 0 and the transfers and skips: the words by their nibbles. -/
theorem test_decode_control :
    decodeTableWord 16 0b0000000011101110 = some .ret ∧
    decodeTableWord 16 0b0000000100100011 = some (.sys 0x123) ∧
    decodeTableWord 16 0b0001001000000100 = some (.jp 0x204) ∧
    decodeTableWord 16 0b0010001000001010 = some (.call 0x20A) ∧
    decodeTableWord 16 0b1011001100000001 = some (.jpV0 0x301) ∧
    decodeTableWord 16 0b0011111100000001 = some (.seImm 15 0x01) ∧
    decodeTableWord 16 0b0100001100001000 = some (.sneImm 3 0x08) ∧
    decodeTableWord 16 0b0101000100100000 = some (.seReg 1 2) ∧
    decodeTableWord 16 0b1001000100100000 = some (.sneReg 1 2) := by decide

/-- R85, moves, arithmetic, logic, shifts, random. -/
theorem test_decode_alu :
    decodeTableWord 16 0b0110101001110111 = some (.ldImm 10 0x77) ∧
    decodeTableWord 16 0b0111000011111111 = some (.addImm 0 0xFF) ∧
    decodeTableWord 16 0b1000000100100000 = some (.ldReg 1 2) ∧
    decodeTableWord 16 0b1000000100100001 = some (.orReg 1 2) ∧
    decodeTableWord 16 0b1000000100100010 = some (.andReg 1 2) ∧
    decodeTableWord 16 0b1000000100100011 = some (.xorReg 1 2) ∧
    decodeTableWord 16 0b1000101010110100 = some (.addReg 10 11) ∧
    decodeTableWord 16 0b1000000100100101 = some (.sub 1 2) ∧
    decodeTableWord 16 0b1000000100100110 = some (.shr 1 2) ∧
    decodeTableWord 16 0b1000000100100111 = some (.subn 1 2) ∧
    decodeTableWord 16 0b1000000100101110 = some (.shl 1 2) ∧
    decodeTableWord 16 0b1100001100001111 = some (.rnd 3 0x0F) := by decide

/-- R85, the index register and memory. -/
theorem test_decode_index_memory :
    decodeTableWord 16 0b1010001100000000 = some (.ldI 0x300) ∧
    decodeTableWord 16 0b1111001000011110 = some (.addI 2) ∧
    decodeTableWord 16 0b1111000100101001 = some (.ldFont 1) ∧
    decodeTableWord 16 0b1111000100110011 = some (.ldBcd 1) ∧
    decodeTableWord 16 0b1111101001010101 = some (.stRegs 10) ∧
    decodeTableWord 16 0b1111101001100101 = some (.ldRegs 10) := by decide

/-- R85, the display. -/
theorem test_decode_display :
    decodeTableWord 16 0b0000000011100000 = some .cls ∧
    decodeTableWord 16 0b1101000100101111 = some (.drw 1 2 15) := by decide

/-- R85, the keyboard and the timers. -/
theorem test_decode_key_timer :
    decodeTableWord 16 0b1110000010011110 = some (.skp 0) ∧
    decodeTableWord 16 0b1110111110100001 = some (.sknp 15) ∧
    decodeTableWord 16 0b1111000100000111 = some (.ldVxDt 1) ∧
    decodeTableWord 16 0b1111001100001010 = some (.ldKey 3) ∧
    decodeTableWord 16 0b1111000100010101 = some (.ldDt 1) ∧
    decodeTableWord 16 0b1111000100011000 = some (.ldSt 1) := by decide

/-- DEC-4, 12, 13, 14, 16, 18, 20, 23: illegal words. -/
theorem test_decode_illegal :
    ∀ w ∈ [0xFFFF#16, 0x5121, 0x9121, 0x8128, 0x812F, 0xE19F, 0xF000, 0xF075], decode w = .error (.illegal w) := by
  intro w hw
  simp only [List.mem_cons, List.not_mem_nil, or_false] at hw
  rcases hw with rfl | rfl | rfl | rfl | rfl | rfl | rfl | rfl <;> rfl

/-- R80: the byte at the lower address is the high one; the bytes after the instruction are left; one byte is none. -/
theorem test_decode_bytes :
    decodeBytes [0x12, 0x04, 0xFF] = .ok (.jp 0x204, [0xFF]) ∧ decodeBytes [0x12] = .error .truncated :=
  ⟨rfl, rfl⟩

/-! ## Control transfer and skips -/

/-- CTL-1. -/
theorem test_sys : look (run1 State.reset 0x0123) (fun t => (t.pc, t.v, t.calls)) =
    some (0x202, State.reset.v, State.reset.calls) := by decide

/-- CTL-7. -/
theorem test_ret : look (run1 { State.reset with sp := 1, stack := State.reset.stack.set 0 0x206 } 0x00EE)
    (fun t => (t.pc, t.sp, t.stack.get 0)) = some (0x206, 0, 0x206) := by decide

/-- CTL-8. -/
theorem test_ret_empty : stop (run1 State.reset 0x00EE) = some .stackUnderflow := by decide

/-- CTL-2. -/
theorem test_jp : look (run1 State.reset 0x1204) State.pc = some 0x204 := by decide

/-- CTL-5. -/
theorem test_call : look (run1 State.reset 0x220A) (fun t => (t.pc, t.sp, t.stack.get 0)) =
    some (0x20A, 1, 0x202) := by decide

/-- CTL-6. -/
theorem test_call_full : stop (run1 { State.reset with sp := 16 } 0x220A) = some .stackOverflow := by decide

/-- CTL-10. -/
theorem test_jpV0 : look (run1 (withRegs [(0, 255)]) 0xBFFF) State.pc = some 0x10FE := by decide

/-- CTL-12, CTL-13. -/
theorem test_seImm : look (run1 (withRegs [(0, 0)]) 0x3000) State.pc = some 0x204 ∧
    look (run1 (withRegs [(0, 1)]) 0x3000) State.pc = some 0x202 := by decide

/-- CTL-15, CTL-16. -/
theorem test_sneImm : look (run1 (withRegs [(3, 7)]) 0x4308) State.pc = some 0x204 ∧
    look (run1 (withRegs [(3, 7)]) 0x4307) State.pc = some 0x202 := by decide

/-- CTL-17, CTL-18. -/
theorem test_seReg : look (run1 (withRegs [(1, 9), (2, 9)]) 0x5120) State.pc = some 0x204 ∧
    look (run1 (withRegs [(1, 9), (2, 8)]) 0x5120) State.pc = some 0x202 := by decide

/-- CTL-20, CTL-21. -/
theorem test_sneReg : look (run1 (withRegs [(1, 9), (2, 8)]) 0x9120) State.pc = some 0x204 ∧
    look (run1 (withRegs [(1, 9), (2, 9)]) 0x9120) State.pc = some 0x202 := by decide

/-! ## Registers and arithmetic -/

/-- ALU-1, ALU-2. -/
theorem test_ldImm : look (run1 State.reset 0x6A77) (fun t => t.reg 10) = some 0x77 ∧
    look (run1 State.reset 0x6F05) (fun t => t.reg 15) = some 5 := by decide

/-- ALU-3 (S1). -/
theorem test_addImm : look (run1 (withRegs [(0, 255), (15, 7)]) 0x7002) (fun t => (t.reg 0, t.reg 15)) =
    some (1, 7) := by decide

/-- VFA-22. -/
theorem test_addImm_flag : look (run1 (withRegs [(15, 255)]) 0x7F01) (fun t => t.reg 15) = some 0 := by decide

/-- ALU-5. -/
theorem test_ldReg : look (run1 (withRegs [(2, 5)]) 0x8120) (fun t => (t.reg 1, t.reg 2)) = some (5, 5) := by decide

/-- ALU-6. -/
theorem test_orReg : look (run1 (withRegs [(1, 0xF0), (2, 0x0F), (15, 1)]) 0x8121) (fun t => (t.reg 1, t.reg 15)) =
    some (0xFF, 1) := by decide

/-- ALU-7. -/
theorem test_andReg : look (run1 (withRegs [(1, 0xF0), (2, 0x3C), (15, 1)]) 0x8122) (fun t => (t.reg 1, t.reg 15)) =
    some (0x30, 1) := by decide

/-- ALU-8. -/
theorem test_xorReg : look (run1 (withRegs [(1, 0xFF), (2, 0x0F), (15, 1)]) 0x8123) (fun t => (t.reg 1, t.reg 15)) =
    some (0xF0, 1) := by decide

/-- S2. -/
theorem test_addReg : look (run1 (withRegs [(1, 200), (2, 100)]) 0x8124) (fun t => (t.reg 1, t.reg 2, t.reg 15)) =
    some (44, 100, 1) := by decide

/-- VFA-1. -/
theorem test_addReg_flag : look (run1 (withRegs [(15, 200), (1, 100)]) 0x8F14) (fun t => (t.reg 1, t.reg 15)) =
    some (100, 1) := by decide

/-- ALU-14 (decision D2), ALU-18. -/
theorem test_sub : look (run1 (withRegs [(1, 3), (2, 10), (15, 9)]) 0x8125) (fun t => (t.reg 1, t.reg 15)) =
      some (249, 0) ∧
    stop (run1 (faulting (withRegs [(1, 3), (2, 10)])) 0x8125) = some .arithmeticUnderflow := by decide

/-- VFA-6, VFA-23 (decision D9). -/
theorem test_sub_flag : look (run1 (withRegs [(15, 10), (1, 3)]) 0x8F15) (fun t => t.reg 15) = some 254 ∧
    stop (run1 (faulting (withRegs [(15, 10), (1, 3)])) 0x8F15) = some .arithmeticUnderflow := by decide

/-- ALU-24. -/
theorem test_shr : look (run1 (withRegs [(1, 4), (2, 0xFF), (15, 1)]) 0x8126)
    (fun t => (t.reg 1, t.reg 2, t.reg 15)) = some (2, 0xFF, 0) := by decide

/-- VFA-12. -/
theorem test_shr_flag : look (run1 (withRegs [(15, 0xFF)]) 0x8F06) (fun t => t.reg 15) = some 0 := by decide

/-- ALU-20. -/
theorem test_subn : look (run1 (withRegs [(1, 3), (2, 10)]) 0x8127) (fun t => (t.reg 1, t.reg 15)) =
    some (7, 1) := by decide

/-- VFA-16. -/
theorem test_subn_flag : look (run1 (withRegs [(1, 3), (15, 10)]) 0x81F7) (fun t => (t.reg 1, t.reg 15)) =
    some (254, 1) := by decide

/-- ALU-26. -/
theorem test_shl : look (run1 (withRegs [(1, 0x81)]) 0x810E) (fun t => (t.reg 1, t.reg 15)) = some (0x02, 1) := by
  decide

/-- VFA-21. -/
theorem test_shl_flag : look (run1 (withRegs [(15, 0xC1)]) 0x8FFE) (fun t => t.reg 15) = some 2 := by decide

/-- ALU-31: the byte is free, and what is stored of it is masked; one byte is asked for. -/
theorem test_rnd : look (exec (.rnd 3 0x0F) State.reset) (fun t => (t.reg 3, t.rngCount)) =
    some (Config.randomByte 0 &&& 0x0F, 1) := rfl

/-! ## Index register and memory -/

/-- IDX-1. -/
theorem test_ldI : look (run1 (withI 0xFFFF) 0xA300) State.i = some 0x300 := by decide

/-- IDX-6 (decision D8). -/
theorem test_addI : look (run1 ((withRegs [(0, 0xFF), (15, 7)]).setI 0xFF80) 0xF01E) (fun t => (t.i, t.reg 15)) =
    some (0x007F, 7) := by decide

/-- IDX-7, IDX-8. -/
theorem test_ldFont : look (run1 (withRegs [(0, 0x0A)]) 0xF029) State.i = some 50 ∧
    look (run1 (withRegs [(0, 0x10)]) 0xF029) State.i = some 80 := by decide

/-- S4. -/
theorem test_ldBcd : look (run1 ((withRegs [(0, 234)]).setI 0x300) 0xF033)
    (fun t => (t.byteAt 0x300, t.byteAt 0x301, t.byteAt 0x302, t.i)) = some (2, 3, 4, 0x300) := by decide

/-- IDX-15. -/
theorem test_ldBcd_bound : stop (run1 ((withRegs [(0, 7)]).setI 4094) 0xF033) = some (.outOfBounds 4094 3) := by
  decide

/-- IDX-17. -/
theorem test_stRegs : look (run1 ((withRegs [(0, 1), (1, 2), (15, 0xEE)]).setI 0x300) 0xFA55)
    (fun t => (t.byteAt 0x300, t.byteAt 0x301, t.byteAt 0x302, t.byteAt 0x30F, t.i)) =
    some (1, 2, 0, 0xEE, 0x300) := by decide

/-- IDX-19, IDX-20. -/
theorem test_stRegs_bound :
    look (run1 { State.reset with v := counted, i := 4080 } 0xF055) (fun t => t.byteAt 4095) = some 0x1F ∧
    stop (run1 (withI 4081) 0xF055) = some (.outOfBounds 4081 16) := by decide

/-- IDX-21, `x` = 0 as there: all 16 registers are loaded. -/
theorem test_ldRegs : look (run1 { State.reset with i := 0x300, heap := [(0x300, 0x10), (0x301, 0x11), (0x30F, 0x1F)] }
    0xF065) (fun t => (t.reg 0, t.reg 1, t.reg 15, t.i)) = some (0x10, 0x11, 0x1F, 0x300) := by decide

/-- IDX-22. -/
theorem test_ldRegs_bound : stop (run1 (withI 4081) 0xF065) = some (.outOfBounds 4081 16) := by decide

/-! ## Display -/

/-- DSP-8, its last cycle: CLS darkens the display, leaves `VF`, and calls `clear` alone. -/
theorem test_cls : look (run1 { withRegs [(15, 1)] with fb := darkScreen.setPixel 0 3 true, calls := [] } 0x00E0)
    (fun t => (t.fb.pixel 0 3, t.reg 15, t.calls)) = some (false, 1, [.dispClear]) := by decide

/-- DSP-2, its draw: the columns wrap. -/
theorem test_drw_wrap : look (run1 { withRegs [(0, 60)] with i := 0x300, heap := [(0x300, 0xFF)] } 0xD011)
    (fun t => ([59, 60, 63, 0, 3, 4].map (fun c => t.fb.pixel 0 c), t.reg 15)) =
    some ([false, true, true, true, true, false], 0) := by decide

/-- DSP-7, its second draw: lit pixels under set bits go dark and `VF` is 1; DSP-9d: the bound. -/
theorem test_drw_collision :
    look (run1 { State.reset with i := 0x300, heap := [(0x300, 0x3C)], fb := (darkScreen.draw [0xF0] 0 0).1 } 0xD001)
      (fun t => ([0, 1, 2, 3, 4, 5, 6].map (fun c => t.fb.pixel 0 c), t.reg 15)) =
      some ([true, true, false, false, true, true, false], 1) ∧
    stop (run1 (withI 4097) 0xD000) = some (.outOfBounds 4097 0) := by decide

/-! ## Keyboard and timers -/

/-- KEY-1 and KEY-2, their second cycle. -/
theorem test_skp :
    look (run1 { withRegs [(2, 5)] with keys := State.reset.keys.set 5 true } 0xE29E) State.pc = some 0x204 ∧
    look (run1 (withRegs [(2, 5)]) 0xE29E) State.pc = some 0x202 := by decide

/-- KEY-5. -/
theorem test_skp_bad : stop (run1 (withRegs [(2, 16)]) 0xE29E) = some (.badKeyIndex 16) := by decide

/-- KEY-3 and KEY-4, their second cycle. -/
theorem test_sknp :
    look (run1 { withRegs [(2, 5)] with keys := State.reset.keys.set 5 true } 0xE2A1) State.pc = some 0x202 ∧
    look (run1 (withRegs [(2, 5)]) 0xE2A1) State.pc = some 0x204 := by decide

/-- KEY-6. -/
theorem test_sknp_bad : stop (run1 (withRegs [(2, 255)]) 0xE2A1) = some (.badKeyIndex 255) := by decide

/-- KEY-7. -/
theorem test_ldKey : look (run1 { State.reset with keyReport := some 7 } 0xF30A)
    (fun t => (t.reg 3, t.pc, t.keyReport)) = some (7, 0x202, none) := by decide

/-- KEY-9: the answer comes after 50 units of time and a raised reset signal: one tick, none in the wait, no poll, and the
time given back to the deadline with the period. KEY-8: no answer, no successor. -/
theorem test_ldKey_waits :
    look (run1 { State.reset with dt := 9, host := [.raiseReset, .clock 50 0, .reportKey 7] } 0xF30A)
      (fun t => (t.reg 3, t.dt, t.psc, t.resetSignal, t.now, t.dl)) = some (7, 8, 1, true, 50, 1000000050) ∧
    refusal (run1 State.reset 0xF30A) = some .waitingForKey := by decide

/-- TMR-6, `PSC` = 1 and `PSC` = 0. -/
theorem test_ldVxDt : look (run1 { State.reset with dt := 3, psc := 1 } 0xF107) (fun t => (t.reg 1, t.dt)) =
      some (3, 3) ∧
    look (run1 { State.reset with dt := 3, psc := 0 } 0xF107) (fun t => (t.reg 1, t.dt, t.psc)) = some (2, 2, 1) := by
  decide

/-- TMR-3, its second cycle: the write comes after the tick. -/
theorem test_ldDt : look (run1 (withRegs [(0, 5)]) 0xF015) State.dt = some 5 := by decide

/-- TMR-4, its second cycle: the buzzer starts. -/
theorem test_ldSt : look (run1 { withRegs [(0, 2)] with calls := [] } 0xF018) (fun t => (t.st, t.calls, t.buzzing)) =
    some (2, [.buzStart], true) := by decide

/-- TMR-5, its cycles 4 and 6: a reload and a silent clear make no call. -/
theorem test_ldSt_quiet :
    look (run1 { withRegs [(1, 3)] with st := 5, calls := [], psc := 1 } 0xF118) (fun t => (t.st, t.calls)) =
      some (3, []) ∧
    look (run1 { State.reset with st := 3, calls := [], psc := 1 } 0xF218) (fun t => (t.st, t.calls)) = some (0, []) := by
  decide

/-! ## Tick, fetch, poll, reset -/

/-- R180, R183: the tick that takes `ST` from 1 to 0 stops the buzzer (decision D13). -/
theorem test_tick_stops_buzzer : let t := ({ State.reset with st := 1, calls := [], buzzing := true } : State).tick
    (t.st, t.calls, t.buzzing) = (0, [.buzStop], false) := by decide

/-- FET-1, FET-2 (decision D6). -/
theorem test_fetch : fetch { State.reset with heap := [(0x200, 0x12), (0x201, 0x34), (0x202, 0x56)] } = .ok 0x1234 ∧
    fetch { State.reset with pc := 0x201, heap := [(0x200, 0x12), (0x201, 0x34), (0x202, 0x56)] } = .ok 0x3456 :=
  ⟨rfl, rfl⟩

/-- FET-4, CTL-10: the fetch bound. -/
theorem test_fetch_bound : stop (step { State.reset with pc := 4095 }) = some (.outOfBounds 4095 2) ∧
    stop (step { State.reset with pc := 4350 }) = some (.outOfBounds 4350 2) := by decide

/-- FET-6, FET-7, FET-9. -/
theorem test_memRead_bounds : memRead State.reset 4096 0 = .ok [] ∧
    memRead State.reset 4097 0 = .error (.outOfBounds 4097 0) ∧
    memRead State.reset 65535 3 = .error (.outOfBounds 65535 3) := ⟨rfl, rfl, rfl⟩

/-- CTL-23: a skip from the last word. -/
theorem test_skip_past_end : look (run1 { State.reset with pc := 4094 } 0x3000) State.pc = some 4098 := by decide

/-- RST-2: both signals pending (decision D16). -/
theorem test_poll_power_off_first :
    let t := ({ State.reset with resetSignal := true, powerOffSignal := true } : State).poll
    (t.run, t.resetSignal) = (.halted, true) := by decide

/-- RST-1, RST-4: a reset restores the ROM and the font. -/
theorem test_reset_reloads :
    let s : State := { withRegs [(0, 2)] with
      i := 0x300, heap := [(0, 0), (0x200, 9), (0x300, 2)], params := { Config.defaultParams with rom := [0x60, 0xEA] } }
    let t := s.resetEngine
    (t.reg 0, t.i, t.byteAt 0, t.byteAt 0x200, t.byteAt 0x201, t.byteAt 0x300) = (0, 0, 0xF0, 0x60, 0xEA, 0) := by
  decide

/-- R215: the default period is 1515151.51... ns, exactly: 10^9 ns is 660 of them. -/
theorem test_default_period : Config.defaultParams.cyclePeriod * 660 = 1000000000 * Config.defaultParams.unitsPerNanosecond := by
  decide

/-- R7, D22: a period that is rounded, 1515151.515 ns, and a millisecond beside it. -/
theorem test_rounded_period :
    let p : Params := { Config.defaultParams with unitsPerNanosecond := 1000, cyclePeriod := 1515151515 }
    p.wf = true ∧ p.oneMillisecond = 1000000000 := by decide

/-- R62 (log entry 2): the first glyph row and the last one of the default font. -/
theorem test_font : State.reset.byteAt 0 = 0xF0 ∧ State.reset.byteAt 79 = 0x80 ∧ State.reset.byteAt 80 = 0 := by
  decide

/-! ## Witnesses: states and operands that meet the hypotheses of the statements -/

theorem witness_DecodeOfEncodeIsIdentity : WellFormed (.sys 0x0E1) = true ∧ WellFormed (.drw 15 15 15) = true := by
  decide

theorem witness_EncodeOfDecodeIsIdentity : decode 0xDFFF = .ok (.drw 15 15 15) ∧ decode 0xFF65 = .ok (.ldRegs 15) :=
  ⟨rfl, rfl⟩

/-- One illegal word of each class of R87, and the legal word beside it. -/
theorem witness_IllegalWordsAreTheTables :
    (IllegalWord 0x5001 ∧ IllegalWord 0x8008 ∧ IllegalWord 0x800F ∧ IllegalWord 0x9001 ∧ IllegalWord 0xE09F ∧
      IllegalWord 0xF066) ∧
    (¬ IllegalWord 0x5000 ∧ ¬ IllegalWord 0x8007 ∧ ¬ IllegalWord 0x800E ∧ ¬ IllegalWord 0x9000 ∧
      ¬ IllegalWord 0xE09E ∧ ¬ IllegalWord 0xF065) := by
  refine ⟨⟨?_, ?_, ?_, ?_, ?_, ?_⟩, ?_, ?_, ?_, ?_, ?_, ?_⟩ <;> unfold IllegalWord <;> decide

/-- The wrapping policy with the larger subtrahend, and the faulting policy at equality. -/
theorem witness_SubResult :
    (let s := withRegs [(1, 3), (2, 4)]
     s.params.subUnderflow = .wrap ∧ (s.operandAfterFlag false 1).toNat = 3 ∧
       (s.operandAfterFlag false 2).toNat = 4 ∧ false = decide ((s.reg 1).toNat > (s.reg 2).toNat)) ∧
    (let s := faulting (withRegs [(1, 7), (2, 7)])
     false = decide ((s.reg 1).toNat > (s.reg 2).toNat) ∧
       (s.operandAfterFlag false 2).toNat ≤ (s.operandAfterFlag false 1).toNat) := by decide

theorem witness_SubnResult :
    (let s := withRegs [(1, 4), (2, 3)]
     s.params.subUnderflow = .wrap ∧ false = decide ((s.reg 2).toNat > (s.reg 1).toNat)) ∧
    (let s := faulting (withRegs [(1, 7), (2, 7)])
     false = decide ((s.reg 2).toNat > (s.reg 1).toNat) ∧
       (s.operandAfterFlag false 1).toNat ≤ (s.operandAfterFlag false 2).toNat) := by decide

/-- One apart stops and equal does not, for each instruction. -/
theorem witness_SubUnderflowStops :
    (faulting State.reset).params.subUnderflow = .fault ∧
    stop (exec (.sub 1 2) (faulting (withRegs [(1, 6), (2, 7)]))) = some .arithmeticUnderflow ∧
    stop (exec (.sub 1 2) (faulting (withRegs [(1, 7), (2, 7)]))) = none ∧
    stop (exec (.subn 1 2) (faulting (withRegs [(1, 7), (2, 6)]))) = some .arithmeticUnderflow ∧
    stop (exec (.subn 1 2) (faulting (withRegs [(1, 7), (2, 7)]))) = none := by decide

/-- Bit 0 and bit 7 each way. -/
theorem witness_ShiftResult :
    (let s := withRegs [(1, 0x01), (2, 0x80)]
     true = decide ((s.reg 1).toNat % 2 = 1) ∧ false = decide ((s.reg 2).toNat % 2 = 1) ∧
       false = decide ((s.reg 1).toNat / 128 = 1) ∧ true = decide ((s.reg 2).toNat / 128 = 1)) := by decide

/-- A register other than 15, a second one apart from it, and a shift of each in the state with that one changed. -/
theorem witness_ShiftsInPlaceIgnoreVy :
    (1 : Reg) ≠ 15 ∧ (2 : Reg) ≠ 1 ∧ (2 : Reg) ≠ 15 ∧
    ∃ t u, exec (.shr 1 2) ((withRegs [(1, 5)]).setReg 2 0xFF) = .next t ∧
      exec (.shl 1 2) ((withRegs [(1, 5)]).setReg 2 0xFF) = .next u :=
  ⟨by decide, by decide, by decide, _, _, rfl, rfl⟩

theorem witness_FlagAsOperandTable :
    (withRegs [(15, 10), (14, 3)]).params.subUnderflow = .wrap ∧ (14 : Reg) ≠ 15 := by decide

theorem witness_SysDoesNothing : WellFormed (.sys 0x0FD) = true := by decide

/-- The last entry is free at `SP` = 15. -/
theorem witness_CallResult : ({ State.reset with sp := 15 } : State).sp.val < 16 := by decide

/-- The lowest and the highest entry. -/
theorem witness_RetResult : ({ State.reset with sp := 1 } : State).sp.val = (0 : Fin 16).val + 1 ∧
    ({ State.reset with sp := 16 } : State).sp.val = (15 : Fin 16).val + 1 := by decide

theorem witness_StackLimitsStop : ({ State.reset with sp := 16 } : State).sp.val = 16 ∧
    State.reset.sp.val = 0 := by decide

/-- A CALL with one entry free, and the RET in the state it leaves. -/
theorem witness_CallThenRetReturns : ({ State.reset with sp := 15 } : State).sp.val < 16 ∧
    ∃ t, exec (.call 0x300) { State.reset with sp := 15 } = .next t ∧ ∃ u : State, u.sp = t.sp ∧ u.stack = t.stack :=
  ⟨by decide, _, rfl, _, rfl, rfl⟩

/-- The last place where three bytes fit. -/
theorem witness_BcdStoresDigits : Memory.wf (withI 4093).params.font (withI 4093).heap = true ∧
    (withI 4093).address + 3 ≤ 4096 := by decide

/-- The last place where sixteen bytes fit. -/
theorem witness_StRegsStoresAll : Memory.wf (withI 4080).params.font (withI 4080).heap = true ∧
    (withI 4080).address + 16 ≤ 4096 := by decide

theorem witness_LdRegsLoadsAll : (withI 4080).address + 16 ≤ 4096 ∧ State.reset.address + 16 ≤ 4096 := by decide

/-- Each clause at the first address that is out of its bounds. -/
theorem witness_DataAccessOutOfBoundsStops : 4096 < (withI 4097).address + (0 : Fin 16).val ∧
    4096 < (withI 4082).address + (15 : Fin 16).val ∧ 4096 < (withI 4094).address + 3 ∧
    4096 < (withI 4081).address + 16 := by decide

/-- A store in bounds, and a state with other registers that holds the heap it left. -/
theorem witness_StoreThenLoadRestoresRegisters :
    Memory.wf (withI 4080).params.font (withI 4080).heap = true ∧ (withI 4080).address + 16 ≤ 4096 ∧
    ∃ t, exec (.stRegs 0) (withI 4080) = .next t ∧
      ∃ u : State, u.i = (withI 4080).i ∧ u.heap = t.heap ∧ u.params = (withI 4080).params ∧ u.v = counted :=
  ⟨by decide, by decide, _, rfl, { withI 4080 with v := counted }, rfl, rfl, rfl, rfl⟩

/-- The whole sprite fits, and an empty one at the heap's end. -/
theorem witness_DrwResult : (withI 4081).address + (15 : Fin 16).val ≤ 4096 ∧
    (withI 4096).address + (0 : Fin 16).val ≤ 4096 ∧ (withI 4096).bytesFrom (withI 4096).address 0 = [] := by decide

theorem witness_DrawXorsEveryPixel : (List.replicate 15 (0xFF : Byte)).length ≤ 15 ∧
    coversPixel (List.replicate 15 0xFF) 60 31 13 3 = true ∧ coversPixel (List.replicate 15 0xFF) 60 31 14 3 = false := by
  decide

theorem witness_DrawTwiceRestoresDisplay : (List.replicate 15 (0x80 : Byte)).length ≤ 15 := by decide

/-- The lowest and the highest key number. -/
theorem witness_SkipOnKeyResult : ((withRegs [(2, 0)]).reg 2).toNat = (0 : Fin 16).val ∧
    ((withRegs [(2, 15)]).reg 2).toNat = (15 : Fin 16).val := by decide

theorem witness_BadKeyNumberStops : 15 < ((withRegs [(2, 16)]).reg 2).toNat := by decide

theorem witness_KeyWaitResult : ({ State.reset with keyReport := some 15 } : State).keyReport = some 15 := by decide

/-- The report as the host's first turn, and after turns of every other kind, with another report after it. -/
theorem witness_KeyWaitFreezesMachine (p : Vector Bool 16) :
    State.reset.keyReport = none ∧
    ({ State.reset with host := [.reportKey 0] } : State).host = [] ++ HostTurn.reportKey 0 :: [] ∧
    ({ State.reset with
        host := [.setKeys p, .raiseReset, .raisePowerOff, .clock 5 0, .reportKey 15, .reportKey 1] } : State).host =
      [.setKeys p, .raiseReset, .raisePowerOff, .clock 5 0] ++ HostTurn.reportKey 15 :: [.reportKey 1] ∧
    ∀ j, HostTurn.reportKey j ∉ [HostTurn.setKeys p, .raiseReset, .raisePowerOff, .clock 5 0] := by
  refine ⟨rfl, rfl, rfl, fun j => ?_⟩
  simp

/-- No turn left to the host, and turns none of which reports a key. -/
theorem witness_KeyWaitBlocks :
    (State.reset.keyReport = none ∧ ∀ k, HostTurn.reportKey k ∉ State.reset.host) ∧
    (({ State.reset with host := [.clock 5 0] } : State).keyReport = none ∧
      ∀ k, HostTurn.reportKey k ∉ ({ State.reset with host := [.clock 5 0] } : State).host) := by decide

/-- `LD_ST` leaves the zero state, and does not. -/
theorem witness_SoundTimerWrite :
    (State.reset.st = 0 ∧ (withRegs [(0, 1)]).reg 0 ≠ 0) ∧
    ¬ ((withRegs [(0, 0)]).st = 0 ∧ (withRegs [(0, 0)]).reg 0 ≠ 0) := by decide

/-- `ST` at 1, and on both sides of it. -/
theorem witness_TickCountsDown : ({ State.reset with st := 1 } : State).st.toNat = 1 ∧
    State.reset.st.toNat ≠ 1 ∧ ({ State.reset with st := 2 } : State).st.toNat ≠ 1 := by decide

/-- The highest phase. -/
theorem witness_OneTickInEveryMCycles :
    ({ State.reset with psc := 10 } : State).psc < State.reset.params.clockMultiplier := by decide

/-- The last word of the heap, with nothing left for the host to do. -/
theorem witness_StepRunsDecodedInstruction : (atPc 4094 0x30 0x00).CycleDue 0 [] ∧
    (atPc 4094 0x30 0x00).pc.toNat + 2 ≤ 4096 ∧
    decode (BitVec.ofNat 16 (((atPc 4094 0x30 0x00).byteAt 4094).toNat * 256 +
      ((atPc 4094 0x30 0x00).byteAt 4095).toNat)) = .ok (.seImm 0 0) :=
  ⟨⟨rfl, .inl ⟨rfl, rfl, rfl⟩⟩, by decide, rfl⟩

/-- The clock's answer at the deadline exactly. -/
theorem witness_StepRunsDecodedInstruction_clock :
    ({ State.reset with dl := 7, now := 3, host := [.clock 4 0] } : State).CycleDue 7 [] :=
  ⟨rfl, .inr ⟨4, 0, rfl, by decide, by decide⟩⟩

/-- The first `PC` that cannot be fetched, and an illegal word at the last that can. -/
theorem witness_UnrunnableCyclesStop :
    (({ State.reset with pc := 4095 } : State).CycleDue 0 [] ∧ 4094 < ({ State.reset with pc := 4095 } : State).pc.toNat) ∧
    ((atPc 4094 0xFF 0xFF).CycleDue 0 [] ∧ (atPc 4094 0xFF 0xFF).pc.toNat ≤ 4094 ∧
      0xFFFF#16 = BitVec.ofNat 16 (((atPc 4094 0xFF 0xFF).byteAt 4094).toNat * 256 +
        ((atPc 4094 0xFF 0xFF).byteAt 4095).toNat) ∧ IllegalWord 0xFFFF#16) := by
  refine ⟨⟨⟨rfl, .inl ⟨rfl, rfl, rfl⟩⟩, by decide⟩, ⟨rfl, .inl ⟨rfl, rfl, rfl⟩⟩, by decide, by decide, ?_⟩
  unfold IllegalWord
  decide

/-- The jump to itself at the reset vector, and at the last word a jump reaches. -/
theorem witness_SelfJumpStaysPut :
    ((atPc 0x200 0x12 0x00).CycleDue 0 [] ∧ (atPc 0x200 0x12 0x00).pc.toNat + 2 ≤ 4096 ∧
      ((atPc 0x200 0x12 0x00).byteAt 0x200).toNat * 256 + ((atPc 0x200 0x12 0x00).byteAt 0x201).toNat =
        0x1000 + 0x200) ∧
    ((atPc 4094 0x1F 0xFE).CycleDue 0 [] ∧ (atPc 4094 0x1F 0xFE).pc.toNat + 2 ≤ 4096 ∧
      ((atPc 4094 0x1F 0xFE).byteAt 4094).toNat * 256 + ((atPc 4094 0x1F 0xFE).byteAt 4095).toNat = 0x1000 + 4094) :=
  ⟨⟨⟨rfl, .inl ⟨rfl, rfl, rfl⟩⟩, by decide, by decide⟩, ⟨rfl, .inl ⟨rfl, rfl, rfl⟩⟩, by decide, by decide⟩

/-- The last time before the deadline. -/
theorem witness_IdleTurnSleepsAndPolls :
    let s : State := { State.reset with dl := 10, host := [.clock 9 0] }
    s.run = .running ∧ s.host = [.clock 9 0] ∧ s.now + 9 < s.dl := by decide

/-- Power-off alone or with a reset, neither, reset alone. -/
theorem witness_PollReadsSignals :
    ({ State.reset with powerOffSignal := true, resetSignal := true } : State).powerOffSignal = true ∧
    (State.reset.powerOffSignal = false ∧ State.reset.resetSignal = false) ∧
    (({ State.reset with resetSignal := true } : State).powerOffSignal = false ∧
      ({ State.reset with resetSignal := true } : State).resetSignal = true) := by decide

/-- Parameters with a ROM of one byte; the clauses' boundary addresses. -/
theorem witness_ResetRestoresEverything :
    let s : State := { State.reset with params := { Config.defaultParams with rom := [0xAB] } }
    s.params.wf = true ∧ s.resetEngine.byteAt 79 = s.params.font.get 79 ∧ s.resetEngine.byteAt 80 = 0 ∧
    s.resetEngine.byteAt 511 = 0 ∧ s.resetEngine.byteAt 512 = 0xAB ∧ s.resetEngine.byteAt 513 = 0 := by decide

/-- The longest ROM that fits, and one byte more. -/
theorem witness_LoadResult : 3584 < (List.replicate 3585 (0 : Byte)).length ∧
    (List.replicate 3584 (0 : Byte)).length ≤ 3584 := by
  constructor
  · rw [List.length_replicate]; decide
  · rw [List.length_replicate]

theorem witness_EndedRunsStayEnded : ({ State.reset with run := .halted } : State).run = .halted ∧
    ({ State.reset with run := .faulted .stackOverflow } : State).run = .faulted .stackOverflow ∧
    ∃ t, step State.reset = .next t := ⟨rfl, rfl, _, rfl⟩

/-- Each turn that is not the clock's. -/
theorem witness_HostTurnsTouchOnlyInputs (p : Vector Bool 16) :
    ∀ h ∈ [HostTurn.setKeys p, .reportKey 3, .raiseReset, .raisePowerOff],
      ({ State.reset with host := [h] } : State).run = .running ∧
      ({ State.reset with host := [h] } : State).host = [h] ∧ ∀ elapsed sleep, h ≠ .clock elapsed sleep := by
  simp [State.reset]

theorem witness_StepKeepsInvariant : State.reset.Inv ∧ ∃ t, step State.reset = .next t := ⟨by decide, _, rfl⟩

/-- The invariant at the edges of its ranges. -/
theorem witness_StepKeepsInvariant_edge :
    ({ State.reset with
        pc := 4350, psc := 10, sp := 16, stack := Vector.replicate 16 4096, heap := [(4095, 1)] } : State).Inv := by decide

/-- Each of the three. -/
theorem witness_IndexChangesOnlyByThree :
    (∃ t, exec (.ldI 0x300) State.reset = .next t ∧ t.i ≠ State.reset.i) ∧
    (∃ t, exec (.addI 0) (withRegs [(0, 1)]) = .next t ∧ t.i ≠ (withRegs [(0, 1)]).i) ∧
    (∃ t, exec (.ldFont 0) (withRegs [(0, 1)]) = .next t ∧ t.i ≠ (withRegs [(0, 1)]).i) :=
  ⟨⟨_, rfl, by decide⟩, ⟨_, rfl, by decide⟩, ⟨_, rfl, by decide⟩⟩

/-- As a flag, as data, and by LD_REGS. -/
theorem witness_FlagChangesOnlyAsListed :
    (∃ t, exec (.addReg 1 2) (withRegs [(1, 255), (2, 1)]) = .next t ∧ t.reg 15 ≠ 0) ∧
    (∃ t, exec (.ldImm 15 5) State.reset = .next t ∧ t.reg 15 ≠ State.reset.reg 15) ∧
    (∃ t, exec (.ldRegs 0) State.reset = .next t ∧ t.reg 15 ≠ State.reset.reg 15) :=
  ⟨⟨_, rfl, by decide⟩, ⟨_, rfl, by decide⟩, ⟨_, rfl, by decide⟩⟩

theorem witness_StackAndTimersChangeOnlyAsListed :
    (∃ t, exec (.call 0x300) State.reset = .next t ∧ t.sp ≠ State.reset.sp ∧ t.stack ≠ State.reset.stack) ∧
    (∃ t, exec (.ldDt 0) (withRegs [(0, 1)]) = .next t ∧ t.dt ≠ (withRegs [(0, 1)]).dt) ∧
    (∃ t, exec (.ldSt 0) (withRegs [(0, 1)]) = .next t ∧ t.st ≠ (withRegs [(0, 1)]).st) :=
  ⟨⟨_, rfl, by decide, by decide⟩, ⟨_, rfl, by decide⟩, ⟨_, rfl, by decide⟩⟩

/-- The last byte of each store. -/
theorem witness_HeapChangesOnlyByStores :
    Memory.wf (withI 4080).params.font (withI 4080).heap = true ∧
    (∃ t, exec (.ldBcd 0) ((withRegs [(0, 7)]).setI 4093) = .next t ∧ t.byteAt 4095 ≠ State.reset.byteAt 4095) ∧
    (∃ t, exec (.stRegs 0) ((withRegs [(15, 7)]).setI 4080) = .next t ∧ t.byteAt 4095 ≠ State.reset.byteAt 4095) :=
  ⟨by decide, ⟨_, rfl, by decide⟩, ⟨_, rfl, by decide⟩⟩

/-- LD_KEY after a wait in which the clock moved and a signal was raised. -/
theorem witness_InstructionsLeaveEngineState_wait :
    ∃ t, exec (.ldKey 3) { State.reset with host := [.raiseReset, .clock 5 0, .reportKey 7] } = .next t ∧
      t.now = 5 ∧ t.dl = 5 ∧ t.resetSignal = true := ⟨_, rfl, by decide⟩

theorem witness_InstructionsLeaveEngineState : ∃ t, exec .cls { State.reset with fb := darkScreen.setPixel 0 0 true } =
    .next t ∧ t.fb.pixel 0 0 ≠ (darkScreen.setPixel 0 0 true).pixel 0 0 := ⟨_, rfl, by decide⟩

theorem witness_ParametersNeverChange : ∃ t, step State.reset = .next t := ⟨_, rfl⟩

end Sys2Proof.Tests
end

section
/-! PROOFS. Skips (40_control.md): what a skip on a condition does to the state, and the words of SE_IMM and SNE_IMM. -/

namespace Sys2Proof.Proofs

open Sys2Proof.Machine Sys2Proof.Laws

/-- R100: an instruction that is a skip on `c` adds 2 to `PC` exactly when `c` holds, and changes nothing else. -/
theorem writesPc_of_exec_skipIf {i : Instr} {s : State} {c : Bool} (h : exec i s = .next (s.skipIf c)) :
    WritesPc i s (if c then s.pc + 2 else s.pc) := by
  rw [skipIf_eq] at h
  exact ⟨_, h, rfl, rfl, fun _ => rfl⟩

theorem exec_seImm (x : Reg) (kk : Byte) (s : State) :
    exec (.seImm x kk) s = .next (s.skipIf (s.reg x == kk)) := rfl

theorem exec_sneImm (x : Reg) (kk : Byte) (s : State) :
    exec (.sneImm x kk) s = .next (s.skipIf (s.reg x != kk)) := rfl

/-- R106: class 3, format XK. -/
theorem decode_assembleXK_seImm (x : Reg) (kk : Byte) : decode (assembleXK 0x3 x kk) = .ok (.seImm x kk) := by
  have hc : 0x3 < 16 := by decide
  simp only [decode, fieldC_assembleXK _ x kk hc, fieldX_assembleXK _ x kk hc, fieldKK_assembleXK _ x kk hc]

/-- R107: class 4, format XK. -/
theorem decode_assembleXK_sneImm (x : Reg) (kk : Byte) : decode (assembleXK 0x4 x kk) = .ok (.sneImm x kk) := by
  have hc : 0x4 < 16 := by decide
  simp only [decode, fieldC_assembleXK _ x kk hc, fieldX_assembleXK _ x kk hc, fieldKK_assembleXK _ x kk hc]

/-- Settles O21: both words are format XK words of their class, and both instructions are skips on their condition. -/
theorem skipOnImmediate : Obligations.SkipOnImmediate := by
  unfold Obligations.SkipOnImmediate
  intro s x kk
  refine ⟨decode_assembleXK_seImm x kk, ?_, decode_assembleXK_sneImm x kk, ?_⟩
  · simpa only [beq_iff_eq] using writesPc_of_exec_skipIf (exec_seImm x kk s)
  · simpa only [bne_iff_ne] using writesPc_of_exec_skipIf (exec_sneImm x kk s)

end Sys2Proof.Proofs
end

section
/-! PROOFS. Register loads and logic (41_alu.md): what one register write does to the state, and the words of LD_IMM,
LD_REG, OR, AND and XOR. -/

namespace Sys2Proof.Proofs

open Sys2Proof.Machine Sys2Proof.Laws

/-- R10, R20: an instruction that is one register write changes that register and nothing else. -/
theorem writesRegs_of_exec_setReg {i : Instr} {s : State} {x : Reg} {b : Byte} (h : exec i s = .next (s.setReg x b)) :
    WritesRegs i s (fun r => if r = x then b else s.reg r) :=
  ⟨s.setReg x b, h, reg_setReg s x b, rfl, byteAt_congr (setReg_heap s x b) (setReg_params s x b)⟩

/-- R120: class 6, format XK. -/
theorem decode_assembleXK_ldImm (x : Reg) (kk : Byte) : decode (assembleXK 0x6 x kk) = .ok (.ldImm x kk) := by
  have hc : 0x6 < 16 := by decide
  simp only [decode, fieldC_assembleXK _ x kk hc, fieldX_assembleXK _ x kk hc, fieldKK_assembleXK _ x kk hc]

/-- R82: a format XY word from its fixed bits `c` and `n` and the two register fields. -/
theorem assembleXY_eq_fixed_add_regs (c : Nat) (x y : Reg) (n : Fin 16) :
    assembleXY c x y n = BitVec.ofNat 16 (c * 4096 + n.val + x.val * 256 + y.val * 16) :=
  congrArg (BitVec.ofNat 16) (by omega)

/-- R84: class 8 dispatches on `n`: when its row `n` is the instruction `f`, the word with that `n` decodes to `f` of its
register fields. -/
theorem decode_class8 {f : Reg → Reg → Instr} {n : Fin 16} (x y : Reg)
    (row : ∀ w, fieldN w = n → decodeClass8 w = .ok (f (fieldX w) (fieldY w))) :
    decode (BitVec.ofNat 16 (0x8 * 4096 + n.val + x.val * 256 + y.val * 16)) = .ok (f x y) := by
  have hc : 0x8 < 16 := by decide
  rw [← assembleXY_eq_fixed_add_regs]
  calc decode (assembleXY 0x8 x y n)
      = decodeClass8 (assembleXY 0x8 x y n) := by simp only [decode, fieldC_assembleXY _ x y n hc]
    _ = .ok (f (fieldX (assembleXY 0x8 x y n)) (fieldY (assembleXY 0x8 x y n))) :=
        row _ (fieldN_assembleXY _ x y n hc)
    _ = .ok (f x y) := by rw [fieldX_assembleXY _ x y n hc, fieldY_assembleXY _ x y n hc]

/-! ## The rows of class 8 for moves and logic (R122 to R125) -/

theorem decodeClass8_ldReg (w : Word) (h : fieldN w = 0x0) :
    decodeClass8 w = .ok (.ldReg (fieldX w) (fieldY w)) := by simp [decodeClass8, h]

theorem decodeClass8_orReg (w : Word) (h : fieldN w = 0x1) :
    decodeClass8 w = .ok (.orReg (fieldX w) (fieldY w)) := by simp [decodeClass8, h]

theorem decodeClass8_andReg (w : Word) (h : fieldN w = 0x2) :
    decodeClass8 w = .ok (.andReg (fieldX w) (fieldY w)) := by simp [decodeClass8, h]

theorem decodeClass8_xorReg (w : Word) (h : fieldN w = 0x3) :
    decodeClass8 w = .ok (.xorReg (fieldX w) (fieldY w)) := by simp [decodeClass8, h]

/-! ## Each instruction is one register write -/

theorem exec_ldImm (x : Reg) (kk : Byte) (s : State) : exec (.ldImm x kk) s = .next (s.setReg x kk) := rfl

theorem exec_ldReg (x y : Reg) (s : State) : exec (.ldReg x y) s = .next (s.setReg x (s.reg y)) := rfl

theorem exec_orReg (x y : Reg) (s : State) : exec (.orReg x y) s = .next (s.setReg x (s.reg x ||| s.reg y)) := rfl

theorem exec_andReg (x y : Reg) (s : State) : exec (.andReg x y) s = .next (s.setReg x (s.reg x &&& s.reg y)) := rfl

theorem exec_xorReg (x y : Reg) (s : State) : exec (.xorReg x y) s = .next (s.setReg x (s.reg x ^^^ s.reg y)) := rfl

/-- Settles O5: the five words are the words of their rows, and each instruction is one register write. -/
theorem loadAndLogicResult : Obligations.LoadAndLogicResult := by
  unfold Obligations.LoadAndLogicResult
  intro s x y kk
  exact ⟨decode_assembleXK_ldImm x kk, writesRegs_of_exec_setReg (exec_ldImm x kk s),
    decode_class8 x y decodeClass8_ldReg, writesRegs_of_exec_setReg (exec_ldReg x y s),
    decode_class8 x y decodeClass8_orReg, writesRegs_of_exec_setReg (exec_orReg x y s),
    decode_class8 x y decodeClass8_andReg, writesRegs_of_exec_setReg (exec_andReg x y s),
    decode_class8 x y decodeClass8_xorReg, writesRegs_of_exec_setReg (exec_xorReg x y s)⟩

end Sys2Proof.Proofs
end

section
/-! PROOFS. Index loads (42_index_memory.md): what one write of `I` does to the state, and the words of LD_I and
LD_FONT. -/

namespace Sys2Proof.Proofs

open Sys2Proof.Machine Sys2Proof.Laws

/-- R24: an instruction that is one write of `I` changes `I` and nothing else. -/
theorem writesIndex_of_exec_setI {i : Instr} {s : State} {w : Word} (h : exec i s = .next (s.setI w)) :
    WritesIndex i s w :=
  ⟨s.setI w, h, setI_i s w, rfl, byteAt_congr (setI_heap s w) (setI_params s w)⟩

/-- R140: class A, format A. -/
theorem decode_assembleA_ldI (nnn : BitVec 12) : decode (assembleA 0xA nnn) = .ok (.ldI nnn) := by
  have hc : 0xA < 16 := by decide
  simp only [decode, fieldC_assembleA _ nnn hc, fieldNNN_assembleA _ nnn hc]

/-- R82: a format XF word from its fixed bits `c` and `kk` and the register field. -/
theorem assembleXK_eq_fixed_add_reg (c : Nat) (x : Reg) (kk : Byte) :
    assembleXK c x kk = BitVec.ofNat 16 (c * 4096 + kk.toNat + x.val * 256) :=
  congrArg (BitVec.ofNat 16) (by omega)

/-- R84: class F dispatches on `kk`: when its row `kk` is the instruction `f`, the word with that `kk` decodes to `f` of
its register field. -/
theorem decode_classF {f : Reg → Instr} {kk : Byte} (x : Reg)
    (row : ∀ w, slice w 7 0 = kk.toNat → decodeClassF w = .ok (f (fieldX w))) :
    decode (BitVec.ofNat 16 (0xF * 4096 + kk.toNat + x.val * 256)) = .ok (f x) := by
  have hc : 0xF < 16 := by decide
  rw [← assembleXK_eq_fixed_add_reg]
  calc decode (assembleXK 0xF x kk)
      = decodeClassF (assembleXK 0xF x kk) := by simp only [decode, fieldC_assembleXK _ x kk hc]
    _ = .ok (f (fieldX (assembleXK 0xF x kk))) := row _ (slice_low_assembleXK _ x kk hc)
    _ = .ok (f x) := by rw [fieldX_assembleXK _ x kk hc]

/-- R142: the row of LD_FONT in class F. -/
theorem decodeClassF_ldFont (w : Word) (h : slice w 7 0 = (0x29#8).toNat) :
    decodeClassF w = .ok (.ldFont (fieldX w)) := by simp [decodeClassF, h]

theorem exec_ldI (nnn : BitVec 12) (s : State) : exec (.ldI nnn) s = .next (s.setI (zextAddr nnn)) := rfl

theorem exec_ldFont (x : Reg) (s : State) : exec (.ldFont x) s = .next (s.setI (glyphAddress (s.reg x))) := rfl

/-- Settles O23: both words are the words of their rows, and each instruction is one write of `I`, of `nnn` extended with
zeros and of the glyph address of the whole byte. -/
theorem loadIndexResult : Obligations.LoadIndexResult := by
  unfold Obligations.LoadIndexResult
  intro s x nnn
  exact ⟨decode_assembleA_ldI nnn, writesIndex_of_exec_setI (exec_ldI nnn s),
    decode_classF x decodeClassF_ldFont, writesIndex_of_exec_setI (exec_ldFont x s)⟩

end Sys2Proof.Proofs
end

section
/-! PROOFS. Display (43_display.md): what the dark screen shows, and what clearing the display leaves. -/

namespace Sys2Proof.Proofs

open Sys2Proof.Machine Sys2Proof.Laws

/-- R154: the screen that `DISP.clear()` leaves, where every row is the same row of 64 dark pixels. -/
@[simp] theorem pixel_darkScreen (row : Fin 32) (col : Fin 64) : darkScreen.pixel row col = false := by
  have hrow : darkScreen.get row = Vector.replicate 64 false := Vector.get_replicate 32 _ row
  calc darkScreen.pixel row col
      = (Vector.replicate 64 false).get col := by rw [Screen.pixel, hrow]
    _ = false := Vector.get_replicate 64 false col

/-- Settles O30: the screen after the call is the dark screen, whatever it showed before. -/
theorem clearDarkensEveryPixel : Obligations.ClearDarkensEveryPixel := by
  unfold Obligations.ClearDarkensEveryPixel
  intro s row col
  rw [clearDisplay_fb, pixel_darkScreen]

end Sys2Proof.Proofs
end

section
/-! PROOFS. Shifts (41_alu.md, 70_reset_and_hazards.md R210): what a flag write and then an update of one register in
place does to the registers, and SHR and SHL as such updates. -/

namespace Sys2Proof.Proofs

open Sys2Proof.Machine Sys2Proof.Laws

/-- R128, R130: the flag written first, then `f` applied to `V[x]` as the flag write left it. -/
def flagThenUpdate (c : Bool) (f : Byte → Byte) (x : Reg) (s : State) : State :=
  (s.setFlag c).setReg x (f ((s.setFlag c).reg x))

/-- A register other than the flag is updated from its old value: the flag write does not reach it. -/
theorem reg_flagThenUpdate_same (c : Bool) (f : Byte → Byte) {x : Reg} (s : State) (hx : x ≠ 15) :
    (flagThenUpdate c f x s).reg x = f (s.reg x) := by
  rw [flagThenUpdate, reg_setReg, if_pos rfl, reg_setFlag, if_neg hx]

/-- Registers other than the flag and the one updated are kept. -/
theorem reg_flagThenUpdate_of_ne (c : Bool) (f : Byte → Byte) {x r : Reg} (s : State) (hrx : r ≠ x) (hr : r ≠ 15) :
    (flagThenUpdate c f x s).reg r = s.reg r := by
  rw [flagThenUpdate, reg_setReg, if_neg hrx, reg_setFlag, if_neg hr]

/-- R128: no part of the result mentions `y`. -/
theorem exec_shr (x y : Reg) (s : State) :
    exec (.shr x y) s = .next (flagThenUpdate (lowBit (s.reg x)) (· >>> 1) x s) := rfl

/-- R130: no part of the result mentions `y`. -/
theorem exec_shl (x y : Reg) (s : State) :
    exec (.shl x y) s = .next (flagThenUpdate (highBit (s.reg x)) (· <<< 1) x s) := rfl

theorem reg_of_exec_shr {x y : Reg} {s t : State} (hx : x ≠ 15) (h : exec (.shr x y) s = .next t) :
    t.reg x = s.reg x >>> 1 := by
  rw [exec_shr] at h
  obtain rfl := Host.Outcome.next.inj h
  exact reg_flagThenUpdate_same _ (· >>> 1) s hx

theorem reg_of_exec_shl {x y : Reg} {s t : State} (hx : x ≠ 15) (h : exec (.shl x y) s = .next t) :
    t.reg x = s.reg x <<< 1 := by
  rw [exec_shl] at h
  obtain rfl := Host.Outcome.next.inj h
  exact reg_flagThenUpdate_same _ (· <<< 1) s hx

/-- Settles O12: SHR and SHL are updates of `V[x]` in place that do not mention `y`, and a write of another register
before them leaves the value they shift. -/
theorem shiftsInPlaceIgnoreVy : Obligations.ShiftsInPlaceIgnoreVy := by
  unfold Obligations.ShiftsInPlaceIgnoreVy
  intro s x y y'
  refine ⟨(exec_shr x y s).trans (exec_shr x y' s).symm, (exec_shl x y s).trans (exec_shl x y' s).symm,
    _, _, exec_shr x y s, exec_shl x y s, ?inPlace, ?keepsVy, ?ignoresVy⟩
  case inPlace => exact fun hx => ⟨reg_of_exec_shr hx (exec_shr x y s), reg_of_exec_shl hx (exec_shl x y s)⟩
  case keepsVy => exact fun hyx hy => ⟨reg_flagThenUpdate_of_ne _ _ s hyx hy, reg_flagThenUpdate_of_ne _ _ s hyx hy⟩
  case ignoresVy =>
    rintro hx b _ t' u' hyx rfl ht' hu'
    have hVx : (s.setReg y b).reg x = s.reg x := by rw [reg_setReg, if_neg hyx.symm]
    rw [reg_of_exec_shr hx ht', reg_of_exec_shl hx hu', hVx]
    exact ⟨(reg_of_exec_shr hx (exec_shr x y s)).symm, (reg_of_exec_shl hx (exec_shl x y s)).symm⟩

end Sys2Proof.Proofs
end

section
/-! PROOFS. The decoder and the encoder (30_encoding.md): the decoder reads back the fields an instruction was assembled
from, every word is the assembly of its own fields, and the words that decode to nothing are those of R87's table. -/

namespace Sys2Proof.Proofs

open Sys2Proof.Machine Sys2Proof.Laws

/-! ## From an instruction to its word and back (R81, R82, R85) -/

/-- Class 0 reads every word that is not CLS's or RET's as SYS. -/
theorem decodeClass0_assembleA {nnn : BitVec 12} (h : WellFormed (.sys nnn) = true) :
    decodeClass0 (assembleA 0x0 nnn) = .sys nnn := by
  have hc : 0x0 < 16 := by decide
  obtain ⟨hcls, hret⟩ : nnn ≠ 0x0E0#12 ∧ nnn ≠ 0x0EE#12 := by simpa [WellFormed] using h
  have hne : ∀ v : BitVec 12, nnn ≠ v → assembleA 0x0 nnn ≠ assembleA 0x0 v := fun v hv e =>
    hv (by rw [← fieldNNN_assembleA 0x0 nnn hc, e, fieldNNN_assembleA 0x0 v hc])
  have hclsWord : assembleA 0x0 nnn ≠ 0x00E0#16 := hne 0x0E0#12 hcls
  have hretWord : assembleA 0x0 nnn ≠ 0x00EE#16 := hne 0x0EE#12 hret
  rw [decodeClass0, if_neg hclsWord, if_neg hretWord, fieldNNN_assembleA 0x0 nnn hc]

/-- R86: the word of SYS. -/
theorem decode_assembleA_sys {nnn : BitVec 12} (h : WellFormed (.sys nnn) = true) :
    decode (assembleA 0x0 nnn) = .ok (.sys nnn) := by
  have hc : 0x0 < 16 := by decide
  simp only [decode, fieldC_assembleA 0x0 nnn hc, decodeClass0_assembleA h]

/-- Settles O1: in each format the decoder finds the class, dispatches on the fixed bits below it, and reads the operand
fields back. -/
theorem decodeOfEncodeIsIdentity : Obligations.DecodeOfEncodeIsIdentity := by
  unfold Obligations.DecodeOfEncodeIsIdentity
  intro i hwf
  cases i with
  | cls | ret => decide
  | sys nnn => exact decode_assembleA_sys hwf
  | jp nnn | call nnn | ldI nnn | jpV0 nnn => simp [encode, decode, fieldC_assembleA, fieldNNN_assembleA]
  | seImm x kk | sneImm x kk | ldImm x kk | addImm x kk | rnd x kk =>
    simp [encode, decode, fieldC_assembleXK, fieldX_assembleXK, fieldKK_assembleXK]
  | seReg x y | sneReg x y =>
    simp [encode, decode, fieldC_assembleXY, fieldX_assembleXY, fieldY_assembleXY, fieldN_assembleXY]
  | ldReg x y | orReg x y | andReg x y | xorReg x y | addReg x y | sub x y | shr x y | subn x y | shl x y =>
    simp [encode, decode, decodeClass8, fieldC_assembleXY, fieldX_assembleXY, fieldY_assembleXY, fieldN_assembleXY]
  | drw x y n =>
    simp [encode, decode, fieldC_assembleXY, fieldX_assembleXY, fieldY_assembleXY, fieldN_assembleXY]
  | skp x | sknp x =>
    simp [encode, decode, decodeClassE, fieldC_assembleXK, fieldX_assembleXK, slice_low_assembleXK]
  | ldVxDt x | ldKey x | ldDt x | ldSt x | addI x | ldFont x | ldBcd x | stRegs x | ldRegs x =>
    simp [encode, decode, decodeClassF, fieldC_assembleXK, fieldX_assembleXK, slice_low_assembleXK]

/-! ## From a word to its instruction and back (R85 to R88) -/

theorem fieldC_lt (w : Word) : fieldC w < 16 := Nat.mod_lt _ (by decide)

theorem assembleA_fields (w : Word) : assembleA (fieldC w) (fieldNNN w) = w := by
  have := w.isLt
  apply BitVec.eq_of_toNat_eq
  simp only [assembleA, fieldC, fieldNNN, slice, BitVec.toNat_ofNat]
  omega

theorem assembleXK_fields (w : Word) : assembleXK (fieldC w) (fieldX w) (fieldKK w) = w := by
  have := w.isLt
  apply BitVec.eq_of_toNat_eq
  simp only [assembleXK, fieldC, fieldX, fieldKK, slice, BitVec.toNat_ofNat]
  omega

theorem assembleXY_fields (w : Word) : assembleXY (fieldC w) (fieldX w) (fieldY w) (fieldN w) = w := by
  have := w.isLt
  apply BitVec.eq_of_toNat_eq
  simp only [assembleXY, fieldC, fieldX, fieldY, fieldN, slice, BitVec.toNat_ofNat]
  omega

variable {w : Word} {i : Instr}

theorem assembleA_of_class {c : Nat} (hc : fieldC w = c) : assembleA c (fieldNNN w) = w := by
  rw [← hc, assembleA_fields]

theorem assembleXK_of_class {c : Nat} (hc : fieldC w = c) : assembleXK c (fieldX w) (fieldKK w) = w := by
  rw [← hc, assembleXK_fields]

theorem assembleXK_of_low {c : Nat} {kk : Byte} (hc : fieldC w = c) (hk : slice w 7 0 = kk.toNat) :
    assembleXK c (fieldX w) kk = w := by
  have hkk : fieldKK w = kk := by rw [fieldKK, hk, BitVec.ofNat_toNat, BitVec.setWidth_eq]
  rw [← hkk, assembleXK_of_class hc]

theorem assembleXY_of_low {c : Nat} {n : Fin 16} (hc : fieldC w = c) (hn : (fieldN w).val = n.val) :
    assembleXY c (fieldX w) (fieldY w) n = w := by
  rw [← hc, ← Fin.ext hn, assembleXY_fields]

theorem encode_decodeClass0 (hc : fieldC w = 0x0) :
    WellFormed (decodeClass0 w) = true ∧ encode (decodeClass0 w) = w := by
  unfold decodeClass0
  split
  case isTrue h => exact ⟨rfl, by rw [h]; rfl⟩
  case isFalse hcls =>
    split
    case isTrue h => exact ⟨rfl, by rw [h]; rfl⟩
    case isFalse hret =>
      have hw := assembleA_of_class hc
      have hne : ∀ v : BitVec 12, assembleA 0x0 v ≠ w → fieldNNN w ≠ v := fun v hv e => hv (by rw [← e, hw])
      have hcls' := hne 0x0E0#12 (Ne.symm hcls)
      have hret' := hne 0x0EE#12 (Ne.symm hret)
      exact ⟨by simp [WellFormed, hcls', hret'], hw⟩

theorem encode_of_decodeClass8 (hc : fieldC w = 0x8) (h : decodeClass8 w = .ok i) :
    WellFormed i = true ∧ encode i = w := by
  unfold decodeClass8 at h
  split at h
  all_goals cases h
  all_goals exact ⟨rfl, assembleXY_of_low hc ‹_›⟩

theorem encode_of_decodeClassE (hc : fieldC w = 0xE) (h : decodeClassE w = .ok i) :
    WellFormed i = true ∧ encode i = w := by
  unfold decodeClassE at h
  split at h
  all_goals cases h
  all_goals exact ⟨rfl, assembleXK_of_low hc ‹_›⟩

theorem encode_of_decodeClassF (hc : fieldC w = 0xF) (h : decodeClassF w = .ok i) :
    WellFormed i = true ∧ encode i = w := by
  unfold decodeClassF at h
  split at h
  all_goals cases h
  all_goals exact ⟨rfl, assembleXK_of_low hc ‹_›⟩

/-- Classes 5 and 9: a word whose low nibble is 0, the only one the decoder takes (C1). -/
theorem encode_of_lowNibbleZero {c : Nat} {f : Reg → Reg → Instr} (hc : fieldC w = c)
    (hf : ∀ x y, WellFormed (f x y) = true ∧ encode (f x y) = assembleXY c x y 0x0)
    (h : (if fieldN w = 0 then Except.ok (f (fieldX w) (fieldY w)) else .error (DecodeError.illegal w)) = .ok i) :
    WellFormed i = true ∧ encode i = w := by
  obtain ⟨hwf, he⟩ := hf (fieldX w) (fieldY w)
  split at h
  case isTrue hn =>
    cases h
    exact ⟨hwf, he.trans (assembleXY_of_low hc (congrArg Fin.val hn))⟩
  case isFalse => cases h

/-- Settles O2: the word of each class is assembled again from the fields the decoder read, and the fixed bits it
dispatched on. -/
theorem encodeOfDecodeIsIdentity : Obligations.EncodeOfDecodeIsIdentity := by
  unfold Obligations.EncodeOfDecodeIsIdentity
  intro w i h
  unfold decode at h
  split at h
  case h_1 hc => cases h; exact encode_decodeClass0 hc
  case h_2 hc | h_3 hc | h_11 hc | h_12 hc => cases h; exact ⟨rfl, assembleA_of_class hc⟩
  case h_4 hc | h_5 hc | h_7 hc | h_8 hc | h_13 hc => cases h; exact ⟨rfl, assembleXK_of_class hc⟩
  case h_6 hc | h_10 hc => exact encode_of_lowNibbleZero hc (fun _ _ => ⟨rfl, rfl⟩) h
  case h_9 hc => exact encode_of_decodeClass8 hc h
  case h_14 hc => cases h; exact ⟨rfl, assembleXY_of_low hc rfl⟩
  case h_15 hc => exact encode_of_decodeClassE hc h
  case h_16 =>
    have hlt := fieldC_lt w
    have hc : fieldC w = 0xF := by simp only [imp_false] at *; omega
    exact encode_of_decodeClassF hc h

/-! ## The illegal words (R87) -/

theorem fieldN_eq_zero_iff (w : Word) : fieldN w = 0 ↔ slice w 3 0 = 0 := Fin.ext_iff

theorem decodeClass8_cases (w : Word) :
    (slice w 3 0 ∈ [0x8, 0x9, 0xA, 0xB, 0xC, 0xD, 0xF] ∧ decodeClass8 w = .error (.illegal w)) ∨
    (slice w 3 0 ∉ [0x8, 0x9, 0xA, 0xB, 0xC, 0xD, 0xF] ∧ ∃ i, decodeClass8 w = .ok i) := by
  have hlt := (fieldN w).isLt
  rw [show slice w 3 0 = (fieldN w).val from rfl]
  unfold decodeClass8
  split
  case h_10 =>
    refine .inl ⟨?_, rfl⟩
    simp only [imp_false] at *
    simp only [List.mem_cons, List.not_mem_nil, or_false]
    omega
  all_goals exact .inr ⟨by simp [*], _, rfl⟩

theorem decodeClassE_cases (w : Word) :
    (slice w 7 0 ∉ [0x9E, 0xA1] ∧ decodeClassE w = .error (.illegal w)) ∨
    (¬ slice w 7 0 ∉ [0x9E, 0xA1] ∧ ∃ i, decodeClassE w = .ok i) := by
  unfold decodeClassE
  split
  case h_3 => exact .inl ⟨by simp_all, rfl⟩
  all_goals exact .inr ⟨by simp [*], _, rfl⟩

theorem decodeClassF_cases (w : Word) :
    (slice w 7 0 ∉ [0x07, 0x0A, 0x15, 0x18, 0x1E, 0x29, 0x33, 0x55, 0x65] ∧ decodeClassF w = .error (.illegal w)) ∨
    (¬ slice w 7 0 ∉ [0x07, 0x0A, 0x15, 0x18, 0x1E, 0x29, 0x33, 0x55, 0x65] ∧ ∃ i, decodeClassF w = .ok i) := by
  unfold decodeClassF
  split
  case h_10 => exact .inl ⟨by simp_all, rfl⟩
  all_goals exact .inr ⟨by simp [*], _, rfl⟩

/-- R85, R87: every word is illegal and refused by name, or legal and an instruction. -/
theorem decode_cases (w : Word) :
    (IllegalWord w ∧ decode w = .error (.illegal w)) ∨ (¬ IllegalWord w ∧ ∃ i, decode w = .ok i) := by
  unfold decode IllegalWord
  split
  case h_6 hc | h_10 hc =>
    by_cases hn : fieldN w = 0
    · exact .inr ⟨by simp [hc, (fieldN_eq_zero_iff w).mp hn], _, if_pos hn⟩
    · exact .inl ⟨by simp [hc, mt (fieldN_eq_zero_iff w).mpr hn], if_neg hn⟩
  case h_9 hc => simpa [hc] using decodeClass8_cases w
  case h_15 hc => simpa [hc] using decodeClassE_cases w
  case h_16 =>
    have hlt := fieldC_lt w
    have hc : fieldC w = 0xF := by simp only [imp_false] at *; omega
    simpa [hc] using decodeClassF_cases w
  all_goals exact .inr ⟨by simp [*], _, rfl⟩

/-- Settles O3: a word cannot be illegal and legal at once, so the two cases of the decoder are R87's two. -/
theorem illegalWordsAreTheTables : Obligations.IllegalWordsAreTheTables := by
  unfold Obligations.IllegalWordsAreTheTables
  intro w
  obtain ⟨hill, herr⟩ | ⟨hleg, hok⟩ := decode_cases w
  · exact ⟨fun _ => herr, fun h => absurd hill h⟩
  · exact ⟨fun h => absurd h hleg, fun _ => hok⟩

/-- Settles O4: the words of the spec's vectors, each decoded by evaluation. -/
theorem specWordsDecode : Obligations.SpecWordsDecode := by
  unfold Obligations.SpecWordsDecode
  decide

end Sys2Proof.Proofs
end

section
/-! PROOFS. What an instruction can do to the state, said once: a case per set of fields it may write, with the
instructions it belongs to. -/

namespace Sys2Proof.Proofs

open Sys2Proof.Machine Sys2Proof.Laws

/-! ## Words and their numbers -/

/-- R83: `zext_16(nnn)`, as a number. -/
theorem toNat_zextAddr (nnn : BitVec 12) : (zextAddr nnn).toNat = nnn.toNat := by
  have := nnn.isLt
  rw [zextAddr, BitVec.toNat_ofNat]
  omega

/-- R105: `V[0] + nnn` fits in 16 bits. -/
theorem toNat_offsetTarget (s : State) (nnn : BitVec 12) :
    (s.offsetTarget nnn).toNat = (s.reg 0).toNat + nnn.toNat := by
  have := nnn.isLt
  have := (s.reg 0).isLt
  rw [State.offsetTarget, BitVec.toNat_ofNat]
  omega

/-- R28: `PC + 2` does not wrap while `PC` is in reach of a fetch. -/
theorem toNat_add_two {p : Word} (h : p.toNat ≤ 4096) : (p + 2).toNat = p.toNat + 2 := by
  have h2 : (2 : Word).toNat = 2 := rfl
  rw [BitVec.toNat_add, h2]
  omega

/-! ## The instructions by what they write -/

/-- The instructions that write `V[x]` and no other register. -/
def WritesVx (i : Instr) (x : Reg) : Prop :=
  (∃ kk, i = .ldImm x kk) ∨ (∃ kk, i = .addImm x kk) ∨ (∃ y, i = .ldReg x y) ∨ (∃ y, i = .orReg x y) ∨
  (∃ y, i = .andReg x y) ∨ (∃ y, i = .xorReg x y) ∨ (∃ kk, i = .rnd x kk) ∨ i = .ldVxDt x ∨ i = .ldKey x

/-- The arithmetic instructions that write the flag (R23). -/
def WritesFlag (i : Instr) : Prop :=
  (∃ x y, i = .addReg x y) ∨ (∃ x y, i = .sub x y) ∨ (∃ x y, i = .shr x y) ∨ (∃ x y, i = .subn x y) ∨
  (∃ x y, i = .shl x y)

/-- The instructions that write `I` (R24). -/
def WritesI (i : Instr) : Prop := (∃ nnn, i = .ldI nnn) ∨ (∃ x, i = .addI x) ∨ (∃ x, i = .ldFont x)

/-- What a completed instruction has done to `s`: the fields it may have changed, and of those what the invariant and
the rules of the whole machine need. -/
inductive Effect (s : State) : Instr → State → Prop
  | jump {i t} (frame : t = { s with pc := t.pc, calls := t.calls })
      (bound : s.pc.toNat ≤ 4096 → t.pc.toNat ≤ 4350) : Effect s i t
  | call {nnn t} (frame : t = { s with pc := t.pc, stack := t.stack, sp := t.sp }) (bound : t.pc.toNat ≤ 4350)
      (entries : ∀ k : Fin 16, t.stack.get k = s.pc ∨ t.stack.get k = s.stack.get k) : Effect s (.call nnn) t
  | ret {t} (frame : t = { s with pc := t.pc, sp := t.sp }) (target : ∃ k : Fin 16, t.pc = s.stack.get k) :
      Effect s .ret t
  | writeReg {i x t} (frame : t = { s with v := t.v, calls := t.calls, rngCount := t.rngCount })
      (others : ∀ r, r ≠ x → t.reg r = s.reg r) (writer : WritesVx i x) : Effect s i t
  | arithmetic {i t} (frame : t = { s with v := t.v }) (writer : WritesFlag i) : Effect s i t
  | loadRegs {x t} (frame : t = { s with v := t.v }) : Effect s (.ldRegs x) t
  | index {i t} (frame : t = { s with i := t.i }) (writer : WritesI i) : Effect s i t
  | clear {t} (frame : t = { s with fb := t.fb, calls := t.calls }) : Effect s .cls t
  | draw {x y n t} (frame : t = { s with v := t.v, fb := t.fb, calls := t.calls }) : Effect s (.drw x y n) t
  | keyWait {x t} (frame : t = { s with
        v := t.v, calls := t.calls, keys := t.keys, keyReport := t.keyReport, resetSignal := t.resetSignal
        powerOffSignal := t.powerOffSignal, now := t.now, dl := t.dl, host := t.host })
      (others : ∀ r, r ≠ x → t.reg r = s.reg r) (clock : s.now ≤ t.now) (deadline : t.dl + s.now = s.dl + t.now)
      (reset : s.resetSignal = true → t.resetSignal = true)
      (powerOff : s.powerOffSignal = true → t.powerOffSignal = true) : Effect s (.ldKey x) t
  | delay {x t} (frame : t = { s with dt := t.dt }) : Effect s (.ldDt x) t
  | sound {x t} (frame : t = { s with st := t.st, calls := t.calls, buzzing := t.buzzing }) : Effect s (.ldSt x) t
  | store {i t bs} (frame : t = { s with heap := t.heap }) (written : memWrite s s.address bs = .ok t)
      (range : (∃ x, i = .ldBcd x) ∧ bs.length = 3 ∨ (∃ x, i = .stRegs x) ∧ bs.length = 16) : Effect s i t

variable {i : Instr} {s t : State}

/-! ## Each kind of instruction has its effect -/

theorem effect_skipIf {u : State} (hu : u = { s with calls := u.calls }) (c : Bool) : Effect s i (u.skipIf c) := by
  have hpc : u.pc = s.pc := by rw [hu]
  have hframe : u.skipIf c = { s with pc := (u.skipIf c).pc, calls := (u.skipIf c).calls } := by
    rw [skipIf_eq, hu]
  refine .jump hframe fun h => ?_
  rw [skipIf_eq, hpc]
  cases c with
  | false => exact h.trans (by decide)
  | true => exact (toNat_add_two h).trans_le (by omega)

theorem effect_skipOnKey {wanted : Bool} {b : Byte} (h : skipOnKey wanted b s = .next t) : Effect s i t := by
  rw [skipOnKey_eq] at h
  split at h
  · obtain rfl := Host.Outcome.next.inj h
    exact effect_skipIf rfl _
  · cases h

theorem effect_setReg {x : Reg} {b : Byte} (writer : WritesVx i x) : Effect s i (s.setReg x b) :=
  .writeReg rfl (fun r hr => by rw [reg_setReg, if_neg hr]) writer

theorem effect_subtractInto {x : Reg} {a b : Byte} {c : Bool} (writer : WritesFlag i)
    (h : subtractInto x a b (s.setFlag c) = .next t) : Effect s i t := by
  rw [subtractInto_eq] at h
  split at h
  · cases h
  · obtain rfl := Host.Outcome.next.inj h
    exact .arithmetic rfl writer

theorem effect_ret (h : execRet s = .next t) : Effect s .ret t := by
  unfold execRet at h
  split at h
  case h_1 w u hpop =>
    obtain rfl := Host.Outcome.next.inj h
    obtain ⟨-, -, hframe, k, -, hw⟩ := pop_ok hpop
    exact .ret (by rw [hframe]; rfl) ⟨k, hw⟩
  case h_2 => cases h

theorem effect_call {nnn : BitVec 12} (h : execCall nnn s = .next t) : Effect s (.call nnn) t := by
  unfold execCall at h
  split at h
  case h_1 u hpush =>
    obtain rfl := Host.Outcome.next.inj h
    obtain ⟨-, -, hframe, hentries⟩ := push_ok hpush
    have hnnn := nnn.isLt
    refine .call (by rw [hframe]; rfl) (by rw [setPc_pc, toNat_zextAddr]; omega) fun k => ?_
    rw [setPc_stack, hentries]
    split
    · exact .inl rfl
    · exact .inr rfl
  case h_2 => cases h

theorem effect_drw {x y : Reg} {n : Fin 16} (h : execDrw x y n s = .next t) : Effect s (.drw x y n) t := by
  unfold execDrw at h
  split at h
  · obtain rfl := Host.Outcome.next.inj h
    exact .draw rfl
  · cases h

theorem effect_ldRegs {x : Reg} (h : execLdRegs x s = .next t) : Effect s (.ldRegs x) t := by
  unfold execLdRegs at h
  split at h
  · obtain rfl := Host.Outcome.next.inj h
    exact .loadRegs rfl
  · cases h

theorem reg_endWait (s : State) (x : Reg) (since : Nat) (k : Fin 16) (r : Reg) :
    (s.endWait x since k).reg r = if r = x then BitVec.ofNat 8 k.val else s.reg r :=
  reg_setReg s x (BitVec.ofNat 8 k.val) r

/-- R162, R218: the wait's effect is the host's; its end writes the register and moves the deadline on. -/
theorem effect_ldKey {x : Reg} (h : execLdKey x s = .next t) : Effect s (.ldKey x) t := by
  obtain ⟨k, u, hu, e⟩ | ⟨-, e⟩ := execLdKey_cases x s
  · obtain rfl := Host.Outcome.next.inj (e.symm.trans h)
    obtain ⟨hframe, hnow, hreset, hpower⟩ := awaitKey_frame hu
    rw [emit_now] at hnow
    have hv : u.v = s.v := by rw [hframe]; rfl
    have hdl : u.dl = s.dl := by rw [hframe]; rfl
    refine .keyWait (by rw [hframe]; rfl) (fun r hr => ?_) hnow ?_ hreset hpower
    · rw [reg_endWait, if_neg hr, reg_congr hv]
    · rw [endWait_dl, endWait_now, hdl]
      omega
  · cases e.symm.trans h

theorem effect_ldSt {x : Reg} (h : execLdSt x s = .next t) : Effect s (.ldSt x) t := by
  unfold execLdSt at h
  obtain rfl := Host.Outcome.next.inj h
  split
  · exact .sound rfl
  · exact .sound rfl

theorem memWrite_frame {addr : Nat} {bs : List Byte} (h : memWrite s addr bs = .ok t) :
    t = { s with heap := t.heap } := by
  rw [memWrite_eq] at h
  split at h
  · cases h; rfl
  · cases h

/-- R59: a store completes when its write does. -/
theorem effect_finish_memWrite {bs : List Byte} (h : finish (memWrite s s.address bs) = .next t)
    (range : (∃ x, i = .ldBcd x) ∧ bs.length = 3 ∨ (∃ x, i = .stRegs x) ∧ bs.length = 16) : Effect s i t :=
  .store (memWrite_frame (finish_next.mp h)) (finish_next.mp h) range

/-- R26 step 5: every completed instruction has the effect of its kind. -/
theorem exec_effect (h : exec i s = .next t) : Effect s i t := by
  cases i with
  | cls => cases h; exact .clear rfl
  | ret => exact effect_ret h
  | sys nnn => cases h; exact .jump rfl fun hb => hb.trans (by decide)
  | jp nnn =>
    cases h
    exact .jump rfl fun _ => by have := nnn.isLt; rw [setPc_pc, toNat_zextAddr]; omega
  | jpV0 nnn =>
    cases h
    exact .jump rfl fun _ => by
      have := nnn.isLt; have := (s.reg 0).isLt; rw [setPc_pc, toNat_offsetTarget]; omega
  | call nnn => exact effect_call h
  | seImm x kk | sneImm x kk | seReg x y | sneReg x y => cases h; exact effect_skipIf rfl _
  | skp x | sknp x => exact effect_skipOnKey h
  | ldImm x kk | addImm x kk | ldReg x y | orReg x y | andReg x y | xorReg x y | ldVxDt x =>
    cases h; exact effect_setReg (by simp [WritesVx])
  | rnd x kk =>
    cases h
    exact .writeReg (x := x) rfl (fun r hr => by rw [reg_setReg, if_neg hr]; rfl) (by simp [WritesVx])
  | addReg x y | shr x y | shl x y => cases h; exact .arithmetic rfl (by simp [WritesFlag])
  | sub x y | subn x y => exact effect_subtractInto (by simp [WritesFlag]) h
  | ldI nnn | addI x | ldFont x => cases h; exact .index rfl (by simp [WritesI])
  | drw x y n => exact effect_drw h
  | ldKey x => exact effect_ldKey h
  | ldDt x => cases h; exact .delay rfl
  | ldSt x => exact effect_ldSt h
  | ldBcd x => exact effect_finish_memWrite h (.inl ⟨⟨x, rfl⟩, rfl⟩)
  | stRegs x => exact effect_finish_memWrite h (.inr ⟨⟨x, rfl⟩, s.v.length_toList⟩)
  | ldRegs x => exact effect_ldRegs h

end Sys2Proof.Proofs
end

section
/-! PROOFS. The machine's invariant (10_state.md R28, R31, R33; 20_memory.md R50): every effect of an instruction keeps
it, and so does everything else a step is made of. -/

namespace Sys2Proof.Proofs

open Sys2Proof.Machine Sys2Proof.Laws

variable {i : Instr} {s t : State}

/-- The invariant speaks of five fields: a state that shares four of them, with `PC` in its bound, meets it. -/
theorem inv_congr (hs : s.Inv) (hparams : t.params = s.params) (hheap : t.heap = s.heap) (hpsc : t.psc = s.psc)
    (hstack : t.stack = s.stack) (hpc : t.pc.toNat ≤ 4350) : t.Inv := by
  obtain ⟨hwf, hcanon, hphase, -, hentries⟩ := hs
  exact ⟨by rwa [hparams], by rwa [hparams, hheap], by rwa [hparams, hpsc], hpc, by rwa [hstack]⟩

/-- The invariant of a state that shares all five. -/
theorem inv_congr' (hs : s.Inv) (hparams : t.params = s.params) (hheap : t.heap = s.heap) (hpsc : t.psc = s.psc)
    (hstack : t.stack = s.stack) (hpc : t.pc = s.pc) : t.Inv :=
  inv_congr hs hparams hheap hpsc hstack (by obtain ⟨-, -, -, h, -⟩ := hs; rwa [hpc])

/-! ## Instructions -/

theorem inv_memWrite {addr : Nat} {bs : List Byte} (hs : s.Inv) (h : memWrite s addr bs = .ok t) : t.Inv := by
  obtain ⟨hwf, hcanon, hphase, hpc, hentries⟩ := hs
  obtain ⟨-, hframe, hcanon', -⟩ := memWrite_ok h hcanon
  rw [hframe] at hcanon' ⊢
  exact ⟨hwf, hcanon', hphase, hpc, hentries⟩

/-- R26 step 5: an instruction run with `PC` in reach of its fetch keeps the invariant. -/
theorem exec_inv (hs : s.Inv) (hpc : s.pc.toNat ≤ 4096) (h : exec i s = .next t) : t.Inv := by
  cases exec_effect h with
  | jump frame bound =>
    have hbound := bound hpc
    rw [frame]
    exact inv_congr hs rfl rfl rfl rfl hbound
  | call frame bound entries =>
    obtain ⟨hwf, hcanon, hphase, -, hentries⟩ := hs
    rw [frame]
    refine ⟨hwf, hcanon, hphase, bound, fun k => ?_⟩
    obtain e | e := entries k
    · exact (congrArg BitVec.toNat e).trans_le hpc
    · exact (congrArg BitVec.toNat e).trans_le (hentries k)
  | ret frame target =>
    obtain ⟨k, hk⟩ := target
    have hbound : t.pc.toNat ≤ 4350 := by
      obtain ⟨-, -, -, -, hentries⟩ := hs
      exact (congrArg BitVec.toNat hk).trans_le ((hentries k).trans (by decide))
    rw [frame]
    exact inv_congr hs rfl rfl rfl rfl hbound
  | store _ written => exact inv_memWrite hs written
  | writeReg frame | arithmetic frame | loadRegs frame | index frame | clear frame | draw frame | keyWait frame
  | delay frame | sound frame =>
    rw [frame]
    exact inv_congr' hs rfl rfl rfl rfl rfl

/-! ## The rest of a step -/

theorem params_wf_iff (p : Params) :
    p.wf = true ↔
      1 ≤ p.clockMultiplier ∧ p.rom.length ≤ maxRomLength ∧ 1 ≤ p.cyclePeriod ∧ 1 ≤ p.unitsPerNanosecond := by
  simp only [Params.wf, Bool.and_eq_true, decide_eq_true_eq, and_assoc]

theorem inv_prescale (hs : s.Inv) : s.prescale.Inv := by
  obtain ⟨hwf, hcanon, -, hpc, hentries⟩ := hs
  obtain ⟨hM, -⟩ := (params_wf_iff _).mp hwf
  rw [prescale_eq]
  exact ⟨hwf, hcanon, Nat.mod_lt _ hM, hpc, hentries⟩

theorem inv_resetEngine (hs : s.Inv) : s.resetEngine.Inv := by
  obtain ⟨hwf, -⟩ := hs
  obtain ⟨hM, hrom, -⟩ := (params_wf_iff _).mp hwf
  have hpc : s.resetEngine.pc.toNat = 512 := rfl
  refine ⟨hwf, resetHeap_wf hrom, Nat.mod_lt _ hM, hpc.trans_le (by decide), fun k => ?_⟩
  have hzero : (Vector.replicate 16 (0 : Word)).get k = 0 := Vector.get_replicate 16 0 k
  rw [resetEngine_stack, hzero]
  decide

theorem inv_poll (hs : s.Inv) : s.poll.Inv := by
  obtain ⟨-, e⟩ | ⟨-, -, e⟩ | ⟨-, -, e⟩ := poll_cases s
  · rw [e]; exact inv_congr' hs rfl rfl rfl rfl rfl
  · rw [e]; exact inv_resetEngine (inv_congr' hs rfl rfl rfl rfl rfl)
  · rw [e]; exact inv_congr' hs rfl rfl rfl rfl rfl

/-- R26, R28: a cycle runs its instruction with `PC` at most 4096, since it has fetched from below. -/
theorem inv_cycle (hs : s.Inv) (h : cycle s = .next t) : t.Inv := by
  obtain ⟨w, i, hf, -, he⟩ := cycle_next h
  have hp := inv_prescale hs
  rw [fetch_eq] at hf
  split at hf
  case isTrue hpc =>
    have hadv : s.prescale.advance.pc.toNat ≤ 4096 := by
      rw [advance_pc, toNat_add_two (by simp only [heapSize] at hpc; omega)]
      exact hpc
    have hp' : s.prescale.advance.Inv := inv_congr hp rfl rfl rfl rfl (hadv.trans (by decide))
    exact exec_inv hp' hadv he
  case isFalse => cases hf

theorem inv_loopTurn {time sleep : Nat} (hs : s.Inv) (h : loopTurn time sleep s = .next t) : t.Inv := by
  obtain ⟨-, u, hu, rfl⟩ | ⟨-, rfl⟩ := loopTurn_next h
  · have hnow : State.Inv { s with now := time } := inv_congr' hs rfl rfl rfl rfl rfl
    exact inv_congr' (inv_cycle hnow hu) rfl rfl rfl rfl rfl
  · exact inv_poll (inv_congr' hs rfl rfl rfl rfl rfl)

/-- R193: a turn that is not the clock's reaches the inputs alone; the clock's is an iteration of the loop. -/
theorem takeTurn_inputs_or_loop {turn : HostTurn} (h : takeTurn turn s = .next t) :
    t = { s with
      keys := t.keys, keyReport := t.keyReport, resetSignal := t.resetSignal, powerOffSignal := t.powerOffSignal } ∨
    ∃ time sleep, loopTurn time sleep s = .next t := by
  obtain ⟨_, -, rfl⟩ | ⟨_, -, rfl⟩ | ⟨-, rfl⟩ | ⟨-, rfl⟩ | ⟨_, _, -, hloop⟩ := takeTurn_next h
  · exact .inl rfl
  · exact .inl rfl
  · exact .inl rfl
  · exact .inl rfl
  · exact .inr ⟨_, _, hloop⟩

theorem inv_takeTurn {turn : HostTurn} (hs : s.Inv) (h : takeTurn turn s = .next t) : t.Inv := by
  obtain frame | ⟨_, _, hloop⟩ := takeTurn_inputs_or_loop h
  · rw [frame]
    exact inv_congr' hs rfl rfl rfl rfl rfl
  · exact inv_loopTurn hs hloop

/-- Settles O53: the engine's own move and the host's next turn both keep the invariant. -/
theorem stepKeepsInvariant : Obligations.StepKeepsInvariant := by
  unfold Obligations.StepKeepsInvariant
  intro s t hs h
  obtain ⟨-, ⟨-, hloop⟩ | ⟨turn, rest, -, hturn⟩⟩ := step_next h
  · exact inv_loopTurn hs hloop
  · have hhost : State.Inv { s with host := rest } := inv_congr' hs rfl rfl rfl rfl rfl
    exact inv_takeTurn hhost hturn

/-- Settles O54: a fixed state, field by field. -/
theorem resetMeetsInvariant : Obligations.ResetMeetsInvariant := by
  unfold Obligations.ResetMeetsInvariant
  exact ⟨rfl, reset_heap_wf, by decide, by decide, by decide⟩

end Sys2Proof.Proofs
end

section
/-! PROOFS. What no instruction changes but those listed for it (10_state.md section 7, 20_memory.md R59, R60), and what
no step changes: each read off the effects. -/

namespace Sys2Proof.Proofs

open Sys2Proof.Machine Sys2Proof.Laws

variable {i : Instr} {s t : State}

/-! ## The program's own state: `I`, the registers, the stack, the timers, the heap -/

/-- Settles O55: `I` stands in the frame of every other effect. -/
theorem indexChangesOnlyByThree : Obligations.IndexChangesOnlyByThree := by
  unfold Obligations.IndexChangesOnlyByThree
  intro s t i h hne
  cases exec_effect h with
  | index _ writer => exact writer
  | jump frame | call frame | ret frame | writeReg frame | arithmetic frame | loadRegs frame | clear frame | draw frame
  | keyWait frame | delay frame | sound frame | store frame => exact absurd (congrArg State.i frame) hne

/-- R22: a write of one register reaches the flag only when that register is the flag. -/
theorem dest_eq_of_reg_ne {x : Reg} (others : ∀ r, r ≠ x → t.reg r = s.reg r) (hne : t.reg 15 ≠ s.reg 15) :
    x = 15 := by_contra fun hx => hne (others 15 (Ne.symm hx))

/-- Settles O56: registers are written by the flag writers, by LD_REGS, and by the instructions that write `V[x]`
alone, where `x` has to be 15. -/
theorem flagChangesOnlyAsListed : Obligations.FlagChangesOnlyAsListed := by
  unfold Obligations.FlagChangesOnlyAsListed
  intro s t i h hne
  cases exec_effect h with
  | writeReg _ others writer =>
    obtain rfl := dest_eq_of_reg_ne others hne
    exact .inr (.inr (.inr (.inr (.inr (.inr (.inr writer))))))
  | keyWait _ others =>
    obtain rfl := dest_eq_of_reg_ne others hne
    simp
  | arithmetic _ writer =>
    obtain h | h | h | h | h := writer
    all_goals simp [h]
  | loadRegs | draw => simp
  | jump frame | call frame | ret frame | index frame | clear frame | delay frame | sound frame | store frame =>
    exact absurd (reg_congr (congrArg State.v frame) 15) hne

/-- Settles O57: the four fields stand in the frame of every other effect. -/
theorem stackAndTimersChangeOnlyAsListed : Obligations.StackAndTimersChangeOnlyAsListed := by
  unfold Obligations.StackAndTimersChangeOnlyAsListed
  intro s t i h
  cases exec_effect h with
  | call frame =>
    rw [frame]
    exact ⟨fun _ => .inl ⟨_, rfl⟩, fun _ => ⟨_, rfl⟩, absurd rfl, absurd rfl⟩
  | ret frame =>
    rw [frame]
    exact ⟨fun _ => .inr rfl, absurd rfl, absurd rfl, absurd rfl⟩
  | delay frame =>
    rw [frame]
    exact ⟨absurd rfl, absurd rfl, fun _ => ⟨_, rfl⟩, absurd rfl⟩
  | sound frame =>
    rw [frame]
    exact ⟨absurd rfl, absurd rfl, absurd rfl, fun _ => ⟨_, rfl⟩⟩
  | jump frame | writeReg frame | arithmetic frame | loadRegs frame | index frame | clear frame | draw frame
  | keyWait frame | store frame =>
    rw [frame]
    exact ⟨absurd rfl, absurd rfl, absurd rfl, absurd rfl⟩

/-- R53: a byte that a write of `bs` changed lies in its range. -/
theorem mem_range_of_memWrite {addr a : Nat} {bs : List Byte} (wf : Memory.wf s.params.font s.heap = true)
    (h : memWrite s addr bs = .ok t) (hne : t.byteAt a ≠ s.byteAt a) : addr ≤ a ∧ a < addr + bs.length := by
  obtain ⟨-, -, -, hbytes⟩ := memWrite_ok h wf
  by_contra hout
  exact hne (by rw [hbytes, if_neg hout])

/-- Settles O58: the heap is written by the stores alone, each in its range. -/
theorem heapChangesOnlyByStores : Obligations.HeapChangesOnlyByStores := by
  unfold Obligations.HeapChangesOnlyByStores
  intro s t i a wf h hne
  cases exec_effect h with
  | store _ written range =>
    have hin := mem_range_of_memWrite wf written hne
    obtain ⟨hi, hlen⟩ | ⟨hi, hlen⟩ := range
    · exact .inl ⟨hi, hlen ▸ hin⟩
    · exact .inr ⟨hi, hlen ▸ hin⟩
  | jump frame | call frame | ret frame | writeReg frame | arithmetic frame | loadRegs frame | index frame | clear frame
  | draw frame | keyWait frame | delay frame | sound frame =>
    exact absurd (byteAt_congr (congrArg State.heap frame) (congrArg State.params frame) a) hne

/-! ## The engine around the program -/

/-- Settles O59: of all effects only LD_KEY's reaches the engine, and its wait is the host's doing. -/
theorem instructionsLeaveEngineState : Obligations.InstructionsLeaveEngineState := by
  unfold Obligations.InstructionsLeaveEngineState
  intro s t i h
  cases exec_effect h with
  | keyWait frame _ clock deadline reset powerOff =>
    rw [frame]
    exact ⟨rfl, rfl, rfl, rfl, absurd rfl, fun hi => absurd rfl (hi _), clock, deadline, reset, powerOff⟩
  | clear frame =>
    rw [frame]
    exact ⟨rfl, rfl, rfl, rfl, fun _ => .inl rfl, fun _ => ⟨rfl, rfl, rfl, rfl, rfl, rfl, rfl⟩, le_refl _, rfl, id, id⟩
  | draw frame =>
    rw [frame]
    exact ⟨rfl, rfl, rfl, rfl, fun _ => .inr ⟨_, _, _, rfl⟩, fun _ => ⟨rfl, rfl, rfl, rfl, rfl, rfl, rfl⟩, le_refl _,
      rfl, id, id⟩
  | jump frame | call frame | ret frame | writeReg frame | arithmetic frame | loadRegs frame | index frame | delay frame
  | sound frame | store frame =>
    rw [frame]
    exact ⟨rfl, rfl, rfl, rfl, absurd rfl, fun _ => ⟨rfl, rfl, rfl, rfl, rfl, rfl, rfl⟩, le_refl _, rfl, id, id⟩

theorem exec_params (h : exec i s = .next t) : t.params = s.params := by
  obtain ⟨-, -, hparams, -⟩ := instructionsLeaveEngineState s t i h
  exact hparams

theorem exec_run (h : exec i s = .next t) : t.run = s.run := by
  obtain ⟨-, hrun, -⟩ := instructionsLeaveEngineState s t i h
  exact hrun

/-! ## What every step keeps -/

theorem prescale_params (s : State) : s.prescale.params = s.params := by rw [prescale_eq]

theorem prescale_run (s : State) : s.prescale.run = s.run := by rw [prescale_eq]

theorem poll_params (s : State) : s.poll.params = s.params := by
  obtain ⟨-, e⟩ | ⟨-, -, e⟩ | ⟨-, -, e⟩ := poll_cases s
  all_goals rw [e]
  rfl

theorem cycle_params (h : cycle s = .next t) : t.params = s.params := by
  obtain ⟨w, i, -, -, he⟩ := cycle_next h
  exact (exec_params he).trans (prescale_params s)

theorem cycle_run (h : cycle s = .next t) : t.run = s.run := by
  obtain ⟨w, i, -, -, he⟩ := cycle_next h
  exact (exec_run he).trans (prescale_run s)

theorem loopTurn_params {time sleep : Nat} (h : loopTurn time sleep s = .next t) : t.params = s.params := by
  obtain ⟨-, u, hu, rfl⟩ | ⟨-, rfl⟩ := loopTurn_next h
  · have hp := cycle_params hu
    exact hp
  · exact poll_params _

theorem takeTurn_params {turn : HostTurn} (h : takeTurn turn s = .next t) : t.params = s.params := by
  obtain frame | ⟨_, _, hloop⟩ := takeTurn_inputs_or_loop h
  · rw [frame]
  · exact loopTurn_params hloop

/-- Settles O60: neither the engine's own move nor a turn of the host reaches the parameters. -/
theorem parametersNeverChange : Obligations.ParametersNeverChange := by
  unfold Obligations.ParametersNeverChange
  intro s t h
  obtain ⟨-, ⟨-, hloop⟩ | ⟨turn, rest, -, hturn⟩⟩ := step_next h
  · exact loopTurn_params hloop
  · have hp := takeTurn_params hturn
    exact hp

/-- R178: a poll halts the machine or leaves `RUN`. -/
theorem poll_run (s : State) : s.poll.run = .halted ∨ s.poll.run = s.run := by
  obtain ⟨-, e⟩ | ⟨-, -, e⟩ | ⟨-, -, e⟩ := poll_cases s
  · exact .inl (by rw [e])
  · exact .inr (by rw [e]; rfl)
  · exact .inr (by rw [e])

theorem loopTurn_run {time sleep : Nat} (h : loopTurn time sleep s = .next t) : t.run = .halted ∨ t.run = s.run := by
  obtain ⟨-, u, hu, rfl⟩ | ⟨-, rfl⟩ := loopTurn_next h
  · have hr := cycle_run hu
    exact .inr hr
  · exact poll_run _

theorem takeTurn_run {turn : HostTurn} (h : takeTurn turn s = .next t) : t.run = .halted ∨ t.run = s.run := by
  obtain frame | ⟨_, _, hloop⟩ := takeTurn_inputs_or_loop h
  · rw [frame]
    exact .inr rfl
  · exact loopTurn_run hloop

/-- R34, R178: from a running machine a step leads to a running or a halted one. -/
theorem step_run (h : step s = .next t) : t.run = .halted ∨ t.run = .running := by
  obtain ⟨hrun, ⟨-, hloop⟩ | ⟨turn, rest, -, hturn⟩⟩ := step_next h
  · rw [← hrun]; exact loopTurn_run hloop
  · have hr := takeTurn_run hturn
    rwa [← hrun]

/-- Settles O51: the two ended run states have steps of their own, and no completed step enters `Faulted`. -/
theorem endedRunsStayEnded : Obligations.EndedRunsStayEnded := by
  unfold Obligations.EndedRunsStayEnded
  intro s
  refine ⟨fun h => by simp only [step, engineStep, h], fun f h => by simp only [step, engineStep, h, raise], ?_⟩
  intro t f h hf
  obtain hrun | hrun := step_run h
  all_goals cases hrun.symm.trans hf

end Sys2Proof.Proofs
end

section
/-! PROOFS. Arithmetic (41_alu.md): what an instruction that writes the flag and then a register does to the state, the
results of the arithmetic instructions in the model's own terms, and the table of the flag as an operand. -/

namespace Sys2Proof.Proofs

open Sys2Proof.Machine Sys2Proof.Laws

/-! ## Byte arithmetic, as arithmetic on numbers -/

theorem byte_add_eq (a b : Byte) : BitVec.ofNat 8 ((a.toNat + b.toNat) % 256) = a + b := by
  apply BitVec.eq_of_toNat_eq
  rw [BitVec.toNat_ofNat, BitVec.toNat_add]
  exact Nat.mod_mod _ 256

theorem byte_sub_eq (a b : Byte) : BitVec.ofNat 8 ((256 + a.toNat - b.toNat) % 256) = a - b := by
  have := b.isLt
  apply BitVec.eq_of_toNat_eq
  rw [BitVec.toNat_ofNat, BitVec.toNat_sub]
  omega

theorem byte_half_eq (a : Byte) : BitVec.ofNat 8 (a.toNat / 2) = a >>> 1 := by
  have := a.isLt
  apply BitVec.eq_of_toNat_eq
  rw [BitVec.toNat_ofNat, BitVec.toNat_ushiftRight, Nat.shiftRight_eq_div_pow]
  omega

theorem byte_double_eq (a : Byte) : BitVec.ofNat 8 (a.toNat * 2 % 256) = a <<< 1 := by
  apply BitVec.eq_of_toNat_eq
  rw [BitVec.toNat_ofNat, BitVec.toNat_shiftLeft, Nat.shiftLeft_eq]
  omega

/-! ## Register writes with a flag -/

variable {i : Instr} {s : State} {x y : Reg}

/-- The registers an instruction leaves may be described in any equal way. -/
theorem writesRegs_congr {f g : Reg → Byte} (h : WritesRegs i s f) (hfg : ∀ r, f r = g r) : WritesRegs i s g := by
  obtain rfl : f = g := funext hfg
  exact h

/-- R127 to R130: the flag is written first, so a result in register 15 replaces it. -/
theorem writesRegs_of_flag_then_reg {c : Bool} {b : Byte} (h : exec i s = .next ((s.setFlag c).setReg x b)) :
    WritesRegs i s (fun r => if r = x then b else if r = 15 then bitByte c else s.reg r) :=
  ⟨_, h, fun r => by rw [reg_setReg, reg_setFlag]; rfl, rfl, fun _ => rfl⟩

/-- R126: the flag is written last, so it replaces a result in register 15. -/
theorem writesRegs_of_reg_then_flag {c : Bool} {b : Byte} (h : exec i s = .next ((s.setReg x b).setFlag c)) :
    WritesRegs i s (fun r => if r = 15 then bitByte c else if r = x then b else s.reg r) :=
  ⟨_, h, fun r => by rw [reg_setFlag, reg_setReg]; rfl, rfl, fun _ => rfl⟩

/-- R133: what the flag write leaves in an operand register. -/
theorem reg_setFlag_eq_operandAfterFlag (s : State) (g : Bool) (r : Reg) :
    (s.setFlag g).reg r = s.operandAfterFlag g r := reg_setFlag s g r

/-! ## ADD_IMM, ADD_REG, RND -/

theorem exec_addImm (x : Reg) (kk : Byte) (s : State) : exec (.addImm x kk) s = .next (s.setReg x (s.reg x + kk)) := rfl

theorem exec_addReg (x y : Reg) (s : State) :
    exec (.addReg x y) s =
      .next ((s.setReg x (s.reg x + s.reg y)).setFlag (decide ((s.reg x).toNat + (s.reg y).toNat > 255))) := rfl

theorem exec_rnd (x : Reg) (kk : Byte) (s : State) :
    exec (.rnd x kk) s = .next ((nextRandom s).2.setReg x (Config.randomByte s.rngCount &&& kk)) := rfl

/-- Settles O6: one register write, of a sum of bytes. -/
theorem addImmediateResult : Obligations.AddImmediateResult := by
  unfold Obligations.AddImmediateResult
  intro s x kk
  rw [byte_add_eq]
  exact writesRegs_of_exec_setReg (exec_addImm x kk s)

/-- Settles O7: a register write, of a sum of bytes, and then the flag write. -/
theorem addRegResult : Obligations.AddRegResult := by
  unfold Obligations.AddRegResult
  intro s x y
  rw [byte_add_eq]
  exact writesRegs_of_reg_then_flag (exec_addReg x y s)

/-- Settles O14: one byte is asked for, and one register written with it under the mask. -/
theorem rndResult : Obligations.RndResult := by
  unfold Obligations.RndResult
  intro s x kk
  have hmasked (b : Byte) : b &&& kk &&& ~~~kk = 0 := by
    rw [BitVec.and_assoc, BitVec.and_not_self]
    exact BitVec.and_zero
  have hx : ((nextRandom s).2.setReg x (Config.randomByte s.rngCount &&& kk)).reg x =
      Config.randomByte s.rngCount &&& kk := by rw [reg_setReg, if_pos rfl]
  refine ⟨_, exec_rnd x kk s, hx, by rw [hx, hmasked], fun r hr => ?_, rfl, rfl, rfl, fun _ => rfl⟩
  rw [reg_setReg, if_neg hr]
  rfl

/-! ## SUB and SUBN -/

/-- R127: SUB, with its operands as the flag write leaves them. -/
theorem exec_sub (x y : Reg) (s : State) (g : Bool) (hg : g = decide ((s.reg x).toNat > (s.reg y).toNat)) :
    exec (.sub x y) s =
      subtractInto x (s.operandAfterFlag g x) (s.operandAfterFlag g y) (s.setFlag g) := by
  subst hg
  rw [← reg_setFlag_eq_operandAfterFlag, ← reg_setFlag_eq_operandAfterFlag]
  rfl

/-- R129: SUBN, with its operands as the flag write leaves them. -/
theorem exec_subn (x y : Reg) (s : State) (g : Bool) (hg : g = decide ((s.reg y).toNat > (s.reg x).toNat)) :
    exec (.subn x y) s =
      subtractInto x (s.operandAfterFlag g y) (s.operandAfterFlag g x) (s.setFlag g) := by
  subst hg
  rw [← reg_setFlag_eq_operandAfterFlag, ← reg_setFlag_eq_operandAfterFlag]
  rfl

/-- R127, R129: a subtraction that does not stop, after the flag write. -/
theorem writesRegs_of_subtractInto {g : Bool} {a b : Byte} (h : exec i s = subtractInto x a b (s.setFlag g))
    (hgo : s.params.subUnderflow = .wrap ∨ b.toNat ≤ a.toNat) :
    WritesRegs i s (fun r => if r = x then a - b else if r = 15 then bitByte g else s.reg r) := by
  have hstop : ¬ (a.toNat < b.toNat ∧ (s.setFlag g).params.subUnderflow = .fault) := by
    rintro ⟨hlt, hfault⟩
    obtain hwrap | hle := hgo
    · cases hwrap.symm.trans hfault
    · omega
  rw [subtractInto_eq, if_neg hstop] at h
  exact writesRegs_of_flag_then_reg h

/-- R134: a subtraction after the flag write stops exactly on an underflow, under the policy `fault`. -/
theorem underflow_iff_of_subtractInto {g : Bool} {a b : Byte} (h : exec i s = subtractInto x a b (s.setFlag g))
    (hpolicy : s.params.subUnderflow = .fault) : b.toNat > a.toNat ↔ exec i s = .fault .arithmeticUnderflow := by
  rw [h, subtractInto_eq, setFlag_params, hpolicy]
  by_cases hlt : a.toNat < b.toNat
  · simp [hlt]
  · simp [hlt]

/-- Settles O8: the difference of the operands the flag write left. -/
theorem subResult : Obligations.SubResult := by
  unfold Obligations.SubResult
  rintro s x y g a b hg rfl rfl hgo
  rw [byte_sub_eq]
  exact writesRegs_of_subtractInto (exec_sub x y s g hg) hgo

/-- Settles O9: as SUB, the operands exchanged. -/
theorem subnResult : Obligations.SubnResult := by
  unfold Obligations.SubnResult
  rintro s x y g a b hg rfl rfl hgo
  rw [byte_sub_eq]
  exact writesRegs_of_subtractInto (exec_subn x y s g hg) hgo

/-- Settles O10: both subtractions stop where their common part does. -/
theorem subUnderflowStops : Obligations.SubUnderflowStops := by
  unfold Obligations.SubUnderflowStops
  intro s x y hpolicy
  exact ⟨fun g hg => underflow_iff_of_subtractInto (exec_sub x y s g hg) hpolicy,
    fun g hg => underflow_iff_of_subtractInto (exec_subn x y s g hg) hpolicy⟩

/-! ## SHR and SHL -/

/-- R128, R130: the flag write, and then an update of `V[x]` from what that left in it. -/
theorem writesRegs_of_flagThenUpdate {c : Bool} {f : Byte → Byte} (h : exec i s = .next (flagThenUpdate c f x s)) :
    WritesRegs i s (fun r => if r = x then f (s.operandAfterFlag c x) else if r = 15 then bitByte c else s.reg r) := by
  rw [← reg_setFlag_eq_operandAfterFlag]
  exact writesRegs_of_flag_then_reg h

/-- Settles O11: both are updates in place after the flag write. -/
theorem shiftResult : Obligations.ShiftResult := by
  unfold Obligations.ShiftResult
  intro s x y
  refine ⟨?shr, ?shl⟩
  case shr =>
    rintro g rfl
    rw [byte_half_eq]
    exact writesRegs_of_flagThenUpdate (exec_shr x y s)
  case shl =>
    rintro g rfl
    rw [byte_double_eq]
    exact writesRegs_of_flagThenUpdate (exec_shl x y s)

/-! ## The flag as an operand (R133) -/

theorem operandAfterFlag_flag (s : State) (g : Bool) : s.operandAfterFlag g 15 = bitByte g := if_pos rfl

theorem operandAfterFlag_of_ne (s : State) (g : Bool) {r : Reg} (hr : r ≠ 15) : s.operandAfterFlag g r = s.reg r :=
  if_neg hr

/-- R133: SUB under the default policy, whichever its registers are. -/
theorem writesRegs_sub_wrap (hpolicy : s.params.subUnderflow = .wrap) {g : Bool}
    (hg : g = decide ((s.reg x).toNat > (s.reg y).toNat)) :
    WritesRegs (.sub x y) s (fun r =>
      if r = x then s.operandAfterFlag g x - s.operandAfterFlag g y else if r = 15 then bitByte g else s.reg r) :=
  writesRegs_of_subtractInto (exec_sub x y s g hg) (.inl hpolicy)

/-- R133: SUBN under the default policy, whichever its registers are. -/
theorem writesRegs_subn_wrap (hpolicy : s.params.subUnderflow = .wrap) {g : Bool}
    (hg : g = decide ((s.reg y).toNat > (s.reg x).toNat)) :
    WritesRegs (.subn x y) s (fun r =>
      if r = x then s.operandAfterFlag g y - s.operandAfterFlag g x else if r = 15 then bitByte g else s.reg r) :=
  writesRegs_of_subtractInto (exec_subn x y s g hg) (.inl hpolicy)

/-- Two writes of register 15 are the write of the last one's value. -/
theorem writesRegs_flag_of_same {b c : Byte}
    (h : WritesRegs i s (fun r => if r = 15 then b else if r = 15 then c else s.reg r)) :
    WritesRegs i s (fun r => if r = 15 then b else s.reg r) :=
  writesRegs_congr h fun r => by by_cases hr : r = 15 <;> simp [hr]

/-- For a register other than the flag, the order of the two tests does not matter. -/
theorem writesRegs_swap {b c : Byte} (hx : x ≠ 15)
    (h : WritesRegs i s (fun r => if r = x then b else if r = 15 then c else s.reg r)) :
    WritesRegs i s (fun r => if r = 15 then c else if r = x then b else s.reg r) :=
  writesRegs_congr h fun r => by by_cases hr : r = 15 <;> simp [hr, Ne.symm hx]

/-- R133: SHR of the flag: the bit shifted out is shifted out again. -/
theorem writesRegs_shr_flag (s : State) (y : Reg) :
    WritesRegs (.shr 15 y) s (fun r => if r = 15 then 0 else s.reg r) := by
  have hzero : ∀ g : Bool, bitByte g >>> 1 = 0 := by decide
  have h := writesRegs_of_flagThenUpdate (exec_shr 15 y s)
  rw [operandAfterFlag_flag, hzero] at h
  exact writesRegs_flag_of_same h

/-- R133: SHL of the flag: twice the bit shifted out. -/
theorem writesRegs_shl_flag (s : State) (y : Reg) :
    WritesRegs (.shl 15 y) s (fun r => if r = 15 then (if (s.reg 15).toNat ≥ 128 then 2 else 0) else s.reg r) := by
  have htwice : bitByte (highBit (s.reg 15)) <<< 1 = if (s.reg 15).toNat ≥ 128 then 2 else 0 := by
    have hlt := (s.reg 15).isLt
    by_cases h : (s.reg 15).toNat ≥ 128
    · have hbit : highBit (s.reg 15) = true := decide_eq_true (by omega)
      rw [hbit, if_pos h]; rfl
    · have hbit : highBit (s.reg 15) = false := decide_eq_false (by omega)
      rw [hbit, if_neg h]; rfl
  have h := writesRegs_of_flagThenUpdate (exec_shl 15 y s)
  rw [operandAfterFlag_flag, htwice] at h
  exact writesRegs_flag_of_same h

/-- Settles O13: each row of the table is its instruction's result with 15 for a register. -/
theorem flagAsOperandTable : Obligations.FlagAsOperandTable := by
  unfold Obligations.FlagAsOperandTable
  rintro s z f a hpolicy hz rfl rfl
  refine ⟨?_, ?_, ?_, writesRegs_shr_flag s z, writesRegs_shl_flag s z, ?_, ?_, ?_, ?_, ?_, ?_,
    writesRegs_shr_flag s 15, writesRegs_shl_flag s 15⟩
  · exact writesRegs_flag_of_same (writesRegs_of_reg_then_flag (exec_addReg 15 z s))
  · have h := writesRegs_sub_wrap (x := 15) (y := z) hpolicy rfl
    rw [operandAfterFlag_flag, operandAfterFlag_of_ne s _ hz] at h
    exact writesRegs_flag_of_same h
  · have h := writesRegs_subn_wrap (x := 15) (y := z) hpolicy rfl
    rw [operandAfterFlag_flag, operandAfterFlag_of_ne s _ hz] at h
    exact writesRegs_flag_of_same h
  · exact writesRegs_of_reg_then_flag (exec_addReg z 15 s)
  · have h := writesRegs_sub_wrap (x := z) (y := 15) hpolicy rfl
    rw [operandAfterFlag_flag, operandAfterFlag_of_ne s _ hz] at h
    exact writesRegs_swap hz h
  · have h := writesRegs_subn_wrap (x := z) (y := 15) hpolicy rfl
    rw [operandAfterFlag_flag, operandAfterFlag_of_ne s _ hz] at h
    exact writesRegs_swap hz h
  · have h := writesRegs_of_reg_then_flag (exec_addReg 15 15 s)
    rw [← two_mul] at h
    exact writesRegs_flag_of_same h
  · have h := writesRegs_sub_wrap (x := 15) (y := 15) hpolicy rfl
    rw [operandAfterFlag_flag, BitVec.sub_self] at h
    exact writesRegs_flag_of_same h
  · have h := writesRegs_subn_wrap (x := 15) (y := 15) hpolicy rfl
    rw [operandAfterFlag_flag, BitVec.sub_self] at h
    exact writesRegs_flag_of_same h

end Sys2Proof.Proofs
end

section
/-! PROOFS. Control transfer (40_control.md): jumps, calls and returns, and the skips on two registers. -/

namespace Sys2Proof.Proofs

open Sys2Proof.Machine Sys2Proof.Laws

theorem exec_sys (nnn : BitVec 12) (s : State) : exec (.sys nnn) s = .next s := rfl

theorem exec_jp (nnn : BitVec 12) (s : State) : exec (.jp nnn) s = .next (s.setPc (zextAddr nnn)) := rfl

theorem exec_jpV0 (nnn : BitVec 12) (s : State) : exec (.jpV0 nnn) s = .next (s.setPc (s.offsetTarget nnn)) := rfl

theorem exec_seReg (x y : Reg) (s : State) : exec (.seReg x y) s = .next (s.skipIf (s.reg x == s.reg y)) := rfl

theorem exec_sneReg (x y : Reg) (s : State) : exec (.sneReg x y) s = .next (s.skipIf (s.reg x != s.reg y)) := rfl

/-- R57, R104: CALL with room on the stack. -/
theorem exec_call_of_lt {s : State} (nnn : BitVec 12) (h : s.sp.val < 16) :
    exec (.call nnn) s = .next { s with
      pc := zextAddr nnn, stack := s.stack.set s.sp.val s.pc h, sp := ⟨s.sp.val + 1, Nat.succ_lt_succ h⟩ } := by
  simp only [exec, execCall, push_eq, dif_pos h]
  rfl

/-- R58, R102: RET with an entry on the stack. -/
theorem exec_ret_of_eq {s : State} {k : Fin 16} (h : s.sp.val = k.val + 1) :
    exec .ret s = .next { s with pc := s.stack.get k, sp := k.castSucc } := by
  have hk : s.sp.val - 1 = k.val := by omega
  have hpop : pop s = .ok (s.stack.get k, { s with sp := k.castSucc }) := by
    rw [pop, dif_neg (by omega)]
    simp only [hk]
    rfl
  simp only [exec, execRet, hpop]
  rfl

/-- Settles O15: the state is the next state, for every `nnn`. -/
theorem sysDoesNothing : Obligations.SysDoesNothing := by
  unfold Obligations.SysDoesNothing
  intro s nnn _
  exact exec_sys nnn s

/-- Settles O16: neither target wraps in 16 bits. -/
theorem jumpResult : Obligations.JumpResult := by
  unfold Obligations.JumpResult
  intro s nnn
  exact ⟨⟨_, exec_jp nnn s, toNat_zextAddr nnn, rfl, fun _ => rfl⟩,
    ⟨_, exec_jpV0 nnn s, toNat_offsetTarget s nnn, rfl, fun _ => rfl⟩⟩

/-- Settles O17: the entry at the old `SP` is the one written. -/
theorem callResult : Obligations.CallResult := by
  unfold Obligations.CallResult
  intro s nnn h
  refine ⟨_, exec_call_of_lt nnn h, toNat_zextAddr nnn, rfl, fun k => ?_, rfl, fun _ => rfl⟩
  simp only [Vector.get_eq_getElem, Vector.getElem_set, eq_comm]

/-- Settles O18: a pop with an entry, and its value to `PC`. -/
theorem retResult : Obligations.RetResult := by
  unfold Obligations.RetResult
  intro s k h
  exact ⟨_, exec_ret_of_eq h, rfl, rfl, rfl, fun _ => rfl⟩

/-- Settles O19: a push at 16 and a pop at 0 are the stack's faults. -/
theorem stackLimitsStop : Obligations.StackLimitsStop := by
  unfold Obligations.StackLimitsStop
  intro s nnn
  refine ⟨fun h => ?_, fun h => ?_⟩
  · have hfull : ¬ s.sp.val < 16 := by omega
    simp only [exec, execCall, push_eq, dif_neg hfull, raise]
  · simp only [exec, execRet, pop, dif_pos h, raise]

/-- Settles O20: RET reads the entry CALL wrote, at the old `SP`. -/
theorem callThenRetReturns : Obligations.CallThenRetReturns := by
  unfold Obligations.CallThenRetReturns
  intro s nnn h
  refine ⟨_, exec_call_of_lt nnn h, fun u hsp hstack => ?_⟩
  have hu : u.sp.val = (⟨s.sp.val, h⟩ : Fin 16).val + 1 := by rw [hsp]
  refine ⟨_, exec_ret_of_eq hu, ?_, rfl⟩
  simp only [hstack, Vector.get_eq_getElem, Vector.getElem_set_self]

/-- Settles O22: both instructions are skips on their condition. -/
theorem skipOnRegisters : Obligations.SkipOnRegisters := by
  unfold Obligations.SkipOnRegisters
  intro s x y
  refine ⟨?_, ?_⟩
  · simpa only [beq_iff_eq] using writesPc_of_exec_skipIf (exec_seReg x y s)
  · simpa only [bne_iff_ne] using writesPc_of_exec_skipIf (exec_sneReg x y s)

end Sys2Proof.Proofs
end

section
/-! PROOFS. Loads and stores at `I` (42_index_memory.md): what each answers in bounds and out of bounds, and the bytes
it leaves. -/

namespace Sys2Proof.Proofs

open Sys2Proof.Machine Sys2Proof.Laws

variable {s : State}

/-! ## In bounds and out of bounds (R51 to R53) -/

/-- R52: a read in bounds. -/
theorem memRead_of_le {addr n : Nat} (h : addr + n ≤ 4096) : memRead s addr n = .ok (s.bytesFrom addr n) := by
  rw [memRead_eq, if_pos h]
  rfl

/-- R52: a read out of bounds. -/
theorem memRead_of_lt {addr n : Nat} (h : 4096 < addr + n) : memRead s addr n = .error (.outOfBounds addr n) := by
  rw [memRead_eq, if_neg (by simp only [heapSize]; omega)]

/-- R53: a write in bounds. -/
theorem memWrite_of_le {addr : Nat} {bs : List Byte} (h : addr + bs.length ≤ 4096) :
    memWrite s addr bs = .ok { s with heap := Memory.writeList s.params.font s.heap addr bs } := by
  rw [memWrite_eq, if_pos h]

/-- R53: a write out of bounds. -/
theorem memWrite_of_lt {addr : Nat} {bs : List Byte} (h : 4096 < addr + bs.length) :
    memWrite s addr bs = .error (.outOfBounds addr bs.length) := by
  rw [memWrite_eq, if_neg (by simp only [heapSize]; omega)]

theorem exec_ldBcd (x : Reg) (s : State) :
    exec (.ldBcd x) s = finish (memWrite s s.address (bcdDigits (s.reg x))) := rfl

theorem exec_stRegs (x : Reg) (s : State) : exec (.stRegs x) s = finish (memWrite s s.address s.v.toList) := rfl

theorem exec_ldRegs_of_le (x : Reg) (h : s.address + 16 ≤ 4096) :
    exec (.ldRegs x) s = .next (s.setRegs (s.bytesFrom s.address 16)) := by
  simp only [exec, execLdRegs, memRead_of_le h]

theorem exec_ldRegs_of_lt (x : Reg) (h : 4096 < s.address + 16) :
    exec (.ldRegs x) s = .fault (.outOfBounds s.address 16) := by
  simp only [exec, execLdRegs, memRead_of_lt h, raise]

theorem exec_drw_of_lt (x y : Reg) {n : Fin 16} (h : 4096 < s.address + n.val) :
    exec (.drw x y n) s = .fault (.outOfBounds s.address n.val) := by
  simp only [exec, execDrw, memRead_of_lt h, raise]

/-- R53: a store of `bs` that fits: its bytes lie at the address, and everything else is kept. -/
theorem finish_memWrite {addr : Nat} {bs : List Byte} (wf : Memory.wf s.params.font s.heap = true)
    (h : addr + bs.length ≤ 4096) :
    ∃ t, finish (memWrite s addr bs) = .next t ∧ (∀ j < bs.length, t.byteAt (addr + j) = bs.getD j 0) ∧
      State.OnlyHeap addr bs.length s t := by
  have hok := memWrite_of_le (s := s) h
  obtain ⟨-, hframe, -, hbytes⟩ := memWrite_ok hok wf
  refine ⟨_, finish_next.mpr hok, fun j hj => ?_, hframe, fun a ha => ?_⟩
  · rw [hbytes, if_pos (by omega), Nat.add_sub_cancel_left]
  · rw [hbytes, if_neg (by omega)]

/-! ## Bytes as lists -/

theorem getD_bytesFrom {addr n j : Nat} (h : j < n) : (s.bytesFrom addr n).getD j 0 = s.byteAt (addr + j) := by
  simp [State.bytesFrom, List.getD_eq_getElem?_getD, h]

theorem getD_toList_v (s : State) (r : Reg) : s.v.toList.getD r.val 0 = s.reg r := by
  simp [List.getD_eq_getElem?_getD, State.reg, Vector.get_eq_getElem]

/-- R143: the three digits, as numbers: each fits in its byte. -/
theorem toNat_bcdDigits (b : Byte) :
    ((bcdDigits b).getD 0 0).toNat = b.toNat / 100 ∧ ((bcdDigits b).getD 1 0).toNat = b.toNat / 10 % 10 ∧
      ((bcdDigits b).getD 2 0).toNat = b.toNat % 10 := by
  have := b.isLt
  refine ⟨?_, ?_, ?_⟩
  all_goals
    simp only [bcdDigits, List.getD_cons_zero, List.getD_cons_succ, BitVec.toNat_ofNat]
    omega

/-! ## The instructions -/

/-- Settles O24: one write of `I`. -/
theorem addIndexResult : Obligations.AddIndexResult := by
  unfold Obligations.AddIndexResult
  intro s x
  exact writesIndex_of_exec_setI rfl

/-- Settles O25: a store of the three digits. -/
theorem bcdStoresDigits : Obligations.BcdStoresDigits := by
  unfold Obligations.BcdStoresDigits
  intro s x wf h
  obtain ⟨t, ht, hbytes, honly⟩ := finish_memWrite (bs := bcdDigits (s.reg x)) wf h
  obtain ⟨hhundreds, htens, hunits⟩ := toNat_bcdDigits (s.reg x)
  have hlen : (bcdDigits (s.reg x)).length = 3 := rfl
  refine ⟨t, ht, ?_, ?_, ?_, honly⟩
  · rw [← Nat.add_zero s.address, hbytes 0 (by omega), hhundreds]
  · rw [hbytes 1 (by omega), htens]
  · rw [hbytes 2 (by omega), hunits]

/-- R145: ST_REGS in bounds stores each register in its place. -/
theorem stRegs_stores (x : Reg) (wf : Memory.wf s.params.font s.heap = true) (h : s.address + 16 ≤ 4096) :
    ∃ t, exec (.stRegs x) s = .next t ∧ (∀ j : Reg, t.byteAt (s.address + j.val) = s.reg j) ∧
      State.OnlyHeap s.address 16 s t := by
  have hlen : s.v.toList.length = 16 := s.v.length_toList
  obtain ⟨t, ht, hbytes, honly⟩ := finish_memWrite (bs := s.v.toList) wf (hlen.symm ▸ h)
  rw [hlen] at honly
  exact ⟨t, ht, fun j => by rw [hbytes j.val (by omega), getD_toList_v], honly⟩

/-- Settles O26: a store of the whole register file. -/
theorem stRegsStoresAll : Obligations.StRegsStoresAll := by
  unfold Obligations.StRegsStoresAll
  intro s x wf h
  exact stRegs_stores x wf h

theorem reg_setRegs_bytesFrom (s u : State) (addr : Nat) (r : Reg) :
    (s.setRegs (u.bytesFrom addr 16)).reg r = u.byteAt (addr + r.val) := by
  rw [reg_setRegs, getD_bytesFrom r.isLt]

/-- Settles O27: each register from its byte of the heap. -/
theorem ldRegsLoadsAll : Obligations.LdRegsLoadsAll := by
  unfold Obligations.LdRegsLoadsAll
  intro s x h
  exact ⟨_, exec_ldRegs_of_le x h, reg_setRegs_bytesFrom s s s.address, rfl, fun _ => rfl⟩

/-- Settles O28: the four accesses with their lengths, 16 for both register files. -/
theorem dataAccessOutOfBoundsStops : Obligations.DataAccessOutOfBoundsStops := by
  unfold Obligations.DataAccessOutOfBoundsStops
  intro s x y n
  refine ⟨exec_drw_of_lt x y, fun h => ?_, fun h => ⟨?_, exec_ldRegs_of_lt x h⟩⟩
  · rw [exec_ldBcd, memWrite_of_lt (by exact h)]
    rfl
  · have hlen : s.v.toList.length = 16 := s.v.length_toList
    rw [exec_stRegs, memWrite_of_lt (by rw [hlen]; exact h), hlen]
    rfl

/-- Registers that read the same are the same vector. -/
theorem v_eq_of_reg_eq {t : State} (h : ∀ r, t.reg r = s.reg r) : t.v = s.v :=
  Vector.ext fun j hj => h ⟨j, hj⟩

/-- Settles O29: each register is loaded from the byte it was stored in. -/
theorem storeThenLoadRestoresRegisters : Obligations.StoreThenLoadRestoresRegisters := by
  unfold Obligations.StoreThenLoadRestoresRegisters
  intro s x x' wf h
  obtain ⟨t, ht, hbytes, hframe, -⟩ := stRegs_stores x wf h
  refine ⟨t, ht, fun u hi hheap hparams => ?_⟩
  have haddr : u.address = s.address := by rw [State.address, hi, State.address]
  have htparams : t.params = s.params := by rw [hframe]
  refine ⟨_, exec_ldRegs_of_le x' (haddr.symm ▸ h), v_eq_of_reg_eq fun r => ?_⟩
  rw [reg_setRegs_bytesFrom, haddr, byteAt_congr hheap (hparams.trans htparams.symm), hbytes]

end Sys2Proof.Proofs
end

section
/-! PROOFS. Drawing (43_display.md R150 to R155): the sprite bit on a pixel, the drawing loop read pixel by pixel, and
CLS and DRW. -/

namespace Sys2Proof.Proofs

open Sys2Proof.Machine Sys2Proof.Laws

/-! ## Pixels of a screen -/

theorem pixel_setPixel (fb : Screen) (row r : Fin 32) (col c : Fin 64) (b : Bool) :
    (fb.setPixel row col b).pixel r c = if r = row ∧ c = col then b else fb.pixel r c := by
  simp only [Screen.pixel, Screen.setPixel, Vector.get_eq_getElem, Vector.getElem_set]
  by_cases hr : r = row
  · subst hr
    by_cases hc : c = col
    · simp [hc]
    · simp [hc, show ¬ col.val = c.val from fun e => hc (Fin.ext e.symm)]
  · simp [hr, show ¬ row.val = r.val from fun e => hr (Fin.ext e.symm)]

theorem screen_ext {fb fb' : Screen} (h : ∀ row col, fb.pixel row col = fb'.pixel row col) : fb = fb' :=
  Vector.ext fun i hi => Vector.ext fun j hj => h ⟨i, hi⟩ ⟨j, hj⟩

/-! ## The sprite bit on a pixel -/

/-- How many columns a pixel lies to the right of `x0`, round the edge. -/
def colOffset (x0 : Nat) (col : Fin 64) : Nat := (col.val + 64 - x0 % 64) % 64

/-- How many rows a pixel lies below `y`, round the edge. -/
def rowOffset (y : Nat) (row : Fin 32) : Nat := (row.val + 32 - y % 32) % 32

/-- The bit of one sprite byte, drawn from column `x0`, on a column. -/
def byteCovers (b : Byte) (x0 : Nat) (col : Fin 64) : Bool :=
  decide (colOffset x0 col < 8) && spriteBit b (colOffset x0 col)

/-- `coversPixel`, with the sprite's place as numbers, which the drawing loop counts up. -/
def spriteCovers (sprite : List Byte) (x0 y : Nat) (row : Fin 32) (col : Fin 64) : Bool :=
  decide (rowOffset y row < sprite.length) && byteCovers (sprite.getD (rowOffset y row) 0) x0 col

theorem coversPixel_eq (sprite : List Byte) (x0 y0 : Byte) (row : Fin 32) (col : Fin 64) :
    coversPixel sprite x0 y0 row col = spriteCovers sprite x0.toNat y0.toNat row col := Bool.and_assoc _ _ _

theorem eq_wrapCol_iff {x0 k : Nat} (hk : k < 64) (col : Fin 64) : col = wrapCol (x0 + k) ↔ colOffset x0 col = k := by
  have := col.isLt
  simp only [Fin.ext_iff, wrapCol, colOffset]
  omega

theorem eq_wrapRow_iff (y : Nat) (row : Fin 32) : row = wrapRow y ↔ rowOffset y row = 0 := by
  have := row.isLt
  simp only [Fin.ext_iff, wrapRow, rowOffset]
  omega

theorem rowOffset_wrapRow_add {y r : Nat} (hr : r < 32) : rowOffset y (wrapRow (y + r)) = r := by
  simp only [wrapRow, rowOffset]
  omega

/-- The row the next sprite byte starts from is one lower. -/
theorem rowOffset_eq_succ {y : Nat} {row : Fin 32} (h : row ≠ wrapRow y) :
    rowOffset y row = rowOffset (y + 1) row + 1 := by
  have := row.isLt
  rw [ne_eq, eq_wrapRow_iff] at h
  simp only [rowOffset] at h ⊢
  omega

/-- The row of a sprite byte is the last one below it. -/
theorem rowOffset_succ_wrapRow (y : Nat) : rowOffset (y + 1) (wrapRow y) = 31 := by
  simp only [wrapRow, rowOffset]
  omega

section
variable {bs : List Byte} {y : Nat}

/-- A sprite of fewer than 32 rows does not come round to the row above its first. -/
theorem spriteCovers_succ_wrapRow (h : bs.length < 32) (x0 : Nat) (col : Fin 64) :
    spriteCovers bs x0 (y + 1) (wrapRow y) col = false := by
  rw [spriteCovers, rowOffset_succ_wrapRow, decide_eq_false (by omega), Bool.false_and]

/-- The first byte of a sprite covers its own row, the rest every other row. -/
theorem spriteCovers_cons (b : Byte) (x0 : Nat) (row : Fin 32) (col : Fin 64) :
    spriteCovers (b :: bs) x0 y row col =
      if row = wrapRow y then byteCovers b x0 col else spriteCovers bs x0 (y + 1) row col := by
  by_cases hrow : row = wrapRow y
  · rw [if_pos hrow, spriteCovers, (eq_wrapRow_iff y row).mp hrow]
    simp
  · rw [if_neg hrow, spriteCovers, rowOffset_eq_succ hrow]
    simp [spriteCovers]

end

/-! ## The loop over the bits of a byte -/

variable (row : Fin 32) (x0 : Nat) (b : Byte) (d : Screen × Bool)

/-- The first `n` bits of a sprite byte, drawn. -/
def drawBits (n : Nat) : Screen × Bool :=
  (List.range n).foldl (fun e k => drawBit row (wrapCol (x0 + k)) (spriteBit b k) e) d

theorem drawByte_eq_drawBits : drawByte row x0 b d = drawBits row x0 b d 8 := rfl

theorem drawBits_succ (n : Nat) :
    drawBits row x0 b d (n + 1) = drawBit row (wrapCol (x0 + n)) (spriteBit b n) (drawBits row x0 b d n) := by
  simp only [drawBits, List.range_succ, List.foldl_append, List.foldl_cons, List.foldl_nil]

theorem pixel_drawBit (col c : Fin 64) (bit : Bool) (r : Fin 32) :
    (drawBit row col bit d).1.pixel r c = (d.1.pixel r c ^^ (decide (r = row ∧ c = col) && bit)) := by
  rw [drawBit, pixel_setPixel]
  by_cases h : r = row ∧ c = col
  · simp [h]
  · simp [h]

/-- Each of the first `n` bits is XORed onto its column of the row. -/
theorem pixel_drawBits {n : Nat} (hn : n ≤ 64) (r : Fin 32) (c : Fin 64) :
    (drawBits row x0 b d n).1.pixel r c =
      (d.1.pixel r c ^^ (decide (r = row) && (decide (colOffset x0 c < n) && spriteBit b (colOffset x0 c)))) := by
  induction n with
  | zero => simp [drawBits]
  | succ n ih =>
    rw [drawBits_succ, pixel_drawBit, ih (by omega)]
    simp only [eq_wrapCol_iff (show n < 64 by omega)]
    by_cases hc : colOffset x0 c = n
    · simp [hc]
    · have hlt : colOffset x0 c < n + 1 ↔ colOffset x0 c < n := by omega
      simp [hc, hlt]

/-- The bits hit distinct columns, so each finds its pixel as it was: the collision is that a set bit hits a lit one. -/
theorem collision_drawBits {n : Nat} (hn : n ≤ 64) :
    (drawBits row x0 b d n).2 = true ↔ d.2 = true ∨
      ∃ c, colOffset x0 c < n ∧ spriteBit b (colOffset x0 c) = true ∧ d.1.pixel row c = true := by
  induction n with
  | zero => simp [drawBits]
  | succ n ih =>
    have hcol : colOffset x0 (wrapCol (x0 + n)) = n := (eq_wrapCol_iff (by omega) _).mp rfl
    have hold : (drawBits row x0 b d n).1.pixel row (wrapCol (x0 + n)) = d.1.pixel row (wrapCol (x0 + n)) := by
      rw [pixel_drawBits row x0 b d (by omega), hcol]
      simp
    rw [drawBits_succ, drawBit, Bool.or_eq_true, ih (by omega), hold, Bool.and_eq_true, or_assoc]
    refine or_congr_right ⟨?_, ?_⟩
    · rintro (⟨c, hc, hlit⟩ | hlit)
      · exact ⟨c, by omega, hlit⟩
      · exact ⟨wrapCol (x0 + n), by omega, by rwa [hcol]⟩
    · rintro ⟨c, hc, hlit⟩
      obtain hlt | heq : colOffset x0 c < n ∨ colOffset x0 c = n := by omega
      · exact .inl ⟨c, hlt, hlit⟩
      · have hwrap : c = wrapCol (x0 + n) := (eq_wrapCol_iff (by omega) c).mpr heq
        exact .inr (by rwa [heq, hwrap] at hlit)

theorem pixel_drawByte (r : Fin 32) (c : Fin 64) :
    (drawByte row x0 b d).1.pixel r c = (d.1.pixel r c ^^ (decide (r = row) && byteCovers b x0 c)) :=
  pixel_drawBits row x0 b d (by decide) r c

theorem collision_drawByte :
    (drawByte row x0 b d).2 = true ↔ d.2 = true ∨ ∃ c, byteCovers b x0 c = true ∧ d.1.pixel row c = true := by
  rw [drawByte_eq_drawBits, collision_drawBits row x0 b d (by decide)]
  simp only [byteCovers, Bool.and_eq_true, decide_eq_true_eq, and_assoc]

/-! ## The loop over the bytes of a sprite -/

variable {sprite : List Byte} {d}

theorem pixel_drawRows {y : Nat} (h : sprite.length ≤ 32) (r : Fin 32) (c : Fin 64) :
    (drawRows x0 y sprite d).1.pixel r c = (d.1.pixel r c ^^ spriteCovers sprite x0 y r c) := by
  induction sprite generalizing y d with
  | nil => simp [drawRows, spriteCovers]
  | cons b bs ih =>
    simp only [List.length_cons] at h
    rw [drawRows, ih (by omega), pixel_drawByte, spriteCovers_cons]
    by_cases hrow : r = wrapRow y
    · subst hrow
      simp [spriteCovers_succ_wrapRow (show bs.length < 32 by omega)]
    · simp [hrow]

/-- The bytes hit distinct rows, so each finds its row as it was. -/
theorem collision_drawRows {y : Nat} (h : sprite.length ≤ 32) :
    (drawRows x0 y sprite d).2 = true ↔
      d.2 = true ∨ ∃ r c, spriteCovers sprite x0 y r c = true ∧ d.1.pixel r c = true := by
  induction sprite generalizing y d with
  | nil => simp [drawRows, spriteCovers]
  | cons b bs ih =>
    simp only [List.length_cons] at h
    have hbs : bs.length < 32 := by omega
    rw [drawRows, ih (by omega), collision_drawByte, or_assoc]
    refine or_congr_right ⟨?_, ?_⟩
    · rintro (⟨c, hcov, hlit⟩ | ⟨r, c, hcov, hlit⟩)
      · exact ⟨wrapRow y, c, by rwa [spriteCovers_cons, if_pos rfl], hlit⟩
      · have hrow : r ≠ wrapRow y := by
          rintro rfl
          rw [spriteCovers_succ_wrapRow hbs] at hcov
          cases hcov
        refine ⟨r, c, by rwa [spriteCovers_cons, if_neg hrow], ?_⟩
        simpa [pixel_drawByte, hrow] using hlit
    · rintro ⟨r, c, hcov, hlit⟩
      rw [spriteCovers_cons] at hcov
      split at hcov
      case isTrue hrow => exact .inl ⟨c, hcov, hrow ▸ hlit⟩
      case isFalse hrow => exact .inr ⟨r, c, hcov, by simpa [pixel_drawByte, hrow] using hlit⟩

/-! ## The statements -/

/-- Settles O33: the two loops, from the display and no collision. -/
theorem drawXorsEveryPixel : Obligations.DrawXorsEveryPixel := by
  unfold Obligations.DrawXorsEveryPixel
  intro fb sprite x0 y0 h
  have hlen : sprite.length ≤ 32 := by omega
  simp only [coversPixel_eq]
  refine ⟨pixel_drawRows _ hlen, ?_⟩
  rw [Screen.draw, collision_drawRows _ hlen]
  simp

/-- A byte other than 0 has a set bit, and a byte 0 has none. -/
theorem exists_spriteBit_iff : ∀ b : Byte, (∃ k < 8, spriteBit b k = true) ↔ b ≠ 0 := by decide

/-- A sprite covers some pixel exactly when it has a set bit. -/
theorem exists_coversPixel_iff (x0 y0 : Byte) (h : sprite.length ≤ 15) :
    (∃ row col, coversPixel sprite x0 y0 row col = true) ↔ ∃ b ∈ sprite, b ≠ 0 := by
  simp only [coversPixel_eq, spriteCovers, byteCovers, Bool.and_eq_true, decide_eq_true_eq]
  constructor
  · rintro ⟨row, col, hrow, hcol, hbit⟩
    rw [List.getD_eq_getElem _ _ hrow] at hbit
    exact ⟨_, List.getElem_mem hrow, (exists_spriteBit_iff _).mp ⟨_, hcol, hbit⟩⟩
  · rintro ⟨b, hb, hne⟩
    obtain ⟨r, hr, rfl⟩ := List.mem_iff_getElem.mp hb
    obtain ⟨k, hk, hbit⟩ := (exists_spriteBit_iff _).mpr hne
    have hrow : rowOffset y0.toNat (wrapRow (y0.toNat + r)) = r := rowOffset_wrapRow_add (by omega)
    have hcol : colOffset x0.toNat (wrapCol (x0.toNat + k)) = k := (eq_wrapCol_iff (by omega) _).mp rfl
    refine ⟨_, _, hrow.symm ▸ hr, hcol.symm ▸ hk, ?_⟩
    rw [hrow, hcol, List.getD_eq_getElem _ _ hr]
    exact hbit

/-- Settles O34: a bit XORed twice is gone, and after the first draw from a dark screen the lit pixels are those the
sprite covers. -/
theorem drawTwiceRestoresDisplay : Obligations.DrawTwiceRestoresDisplay := by
  unfold Obligations.DrawTwiceRestoresDisplay
  intro fb sprite x0 y0 h
  have hpixel := fun fb => (drawXorsEveryPixel fb sprite x0 y0 h).1
  have hcollision := fun fb => (drawXorsEveryPixel fb sprite x0 y0 h).2
  refine ⟨screen_ext fun row col => ?_, ?_, ?_⟩
  · rw [hpixel, hpixel, Bool.xor_assoc, Bool.xor_self, Bool.xor_false]
  · rw [Bool.eq_false_iff, ne_eq, hcollision]
    simp
  · rw [hcollision, ← exists_coversPixel_iff x0 y0 h]
    simp [hpixel]

theorem exec_cls (s : State) : exec .cls s = .next s.clearDisplay := rfl

/-- Settles O31: one clear call. -/
theorem clsResult : Obligations.ClsResult := by
  unfold Obligations.ClsResult
  intro s
  exact ⟨_, exec_cls s, clearDarkensEveryPixel s, rfl, rfl, fun _ => rfl⟩

/-- R151: DRW in bounds: draw, flag, present. -/
theorem exec_drw_of_le {s : State} (x y : Reg) {n : Fin 16} (h : s.address + n.val ≤ 4096) :
    exec (.drw x y n) s =
      let d := drawSprite s (s.bytesFrom s.address n.val) (s.reg x) (s.reg y)
      .next ((d.1.setFlag d.2).emit .dispPresent) := by
  simp only [exec, execDrw, memRead_of_le h]

/-- Settles O32: the registers after the flag write are the old ones but for register 15. -/
theorem drwResult : Obligations.DrwResult := by
  unfold Obligations.DrwResult
  rintro s x y n sprite h rfl
  exact ⟨_, exec_drw_of_le x y h, rfl, fun r => reg_setFlag _ _ r, rfl, rfl, fun _ => rfl⟩

end Sys2Proof.Proofs
end

section
/-! PROOFS. Keyboard and timers (44_keyboard_timers.md, 60_exceptions.md R179 to R183): the key tests, the key wait, the
timer loads, the tick, and one tick in every `M` timer steps. -/

namespace Sys2Proof.Proofs

open Sys2Proof.Machine Sys2Proof.Laws

variable {s : State}

/-! ## SKP and SKNP -/

theorem exec_skp (x : Reg) (s : State) : exec (.skp x) s = skipOnKey true (s.reg x) s := rfl

theorem exec_sknp (x : Reg) (s : State) : exec (.sknp x) s = skipOnKey false (s.reg x) s := rfl

/-- R160, R161: the key test with a key number. -/
theorem skipOnKey_of_eq (wanted : Bool) {b : Byte} {k : Fin 16} (h : b.toNat = k.val) :
    skipOnKey wanted b s = .next ((s.emit (.kbdPressed k)).skipIf (s.keys.get k == wanted)) := by
  have hlt : b.toNat < 16 := h.trans_lt k.isLt
  obtain rfl : ⟨b.toNat, hlt⟩ = k := Fin.ext h
  rw [skipOnKey_eq, dif_pos hlt]

/-- R166: the key test with any other number. -/
theorem skipOnKey_of_lt (wanted : Bool) {b : Byte} (h : 15 < b.toNat) :
    skipOnKey wanted b s = .fault (.badKeyIndex b) := by
  rw [skipOnKey_eq, dif_neg (by omega)]

/-- R160, R161: the key test calls the keyboard once and skips on its answer. -/
theorem skipOnKey_result (wanted : Bool) {b : Byte} {k : Fin 16} (h : b.toNat = k.val) :
    ∃ t, skipOnKey wanted b s = .next t ∧ t.pc = (if s.keys.get k = wanted then s.pc + 2 else s.pc) ∧
      t.calls = .kbdPressed k :: s.calls ∧ t = { s with pc := t.pc, calls := t.calls } ∧ State.SameHeap s t := by
  rw [skipOnKey_of_eq wanted h, skipIf_eq]
  exact ⟨_, rfl, by simp only [beq_iff_eq, emit_pc], rfl, rfl, fun _ => rfl⟩

/-- Settles O35: both are the key test, one for a key pressed and one for a key released. -/
theorem skipOnKeyResult : Obligations.SkipOnKeyResult := by
  unfold Obligations.SkipOnKeyResult
  intro s x k h
  exact ⟨skipOnKey_result true h, skipOnKey_result false h⟩

/-- Settles O36: both are the key test, which faults on such a number. -/
theorem badKeyNumberStops : Obligations.BadKeyNumberStops := by
  unfold Obligations.BadKeyNumberStops
  intro s x h
  exact ⟨(exec_skp x s).trans (skipOnKey_of_lt true h), (exec_sknp x s).trans (skipOnKey_of_lt false h)⟩

/-! ## LD_KEY -/

/-- Settles O37: a report that stands ends the wait where it began, so no time is given back. -/
theorem keyWaitResult : Obligations.KeyWaitResult := by
  unfold Obligations.KeyWaitResult
  intro s x k h
  have hwait := awaitKey_reported (s := s.emit .kbdWaitKey) h s.host
  refine ⟨_, execLdKey_next hwait, fun r => reg_endWait _ x s.now k r, rfl, rfl, ?_, fun _ => rfl⟩
  simp [State.endWait, State.setReg, State.emit]

/-- Settles O38: the wait ends with the first report, and gives the time of the turns before it back to the deadline. -/
theorem keyWaitFreezesMachine : Obligations.KeyWaitFreezesMachine := by
  unfold Obligations.KeyWaitFreezesMachine
  intro s x k turns rest hnone hhost hturns
  have hwait := awaitKey_answered (s := s.emit .kbdWaitKey) (rest := rest) (k := k) hnone hturns
  rw [← hhost] at hwait
  refine ⟨_, execLdKey_next hwait, fun r => reg_endWait _ x s.now k r, ?_, ?_, ?_, fun _ => rfl⟩
  · simp
  · simp
  · simp [State.endWait, State.setReg, State.emit, hnone]

/-- Settles O39: a wait that no report ends. -/
theorem keyWaitBlocks : Obligations.KeyWaitBlocks := by
  unfold Obligations.KeyWaitBlocks
  intro s x hnone hhost
  exact execLdKey_refused (awaitKey_never (s := s.emit .kbdWaitKey) hnone hhost)

/-! ## The timers -/

theorem exec_ldVxDt (x : Reg) (s : State) : exec (.ldVxDt x) s = .next (s.setReg x s.dt) := rfl

theorem exec_ldDt (x : Reg) (s : State) : exec (.ldDt x) s = .next { s with dt := s.reg x } := rfl

/-- R165, R186: LD_ST that starts the buzzer. -/
theorem exec_ldSt_of_starts {x : Reg} (h : s.st = 0 ∧ s.reg x ≠ 0) :
    exec (.ldSt x) s = .next ({ s with st := s.reg x } : State).startBuzzer := congrArg _ (if_pos h)

/-- R165: LD_ST that does not. -/
theorem exec_ldSt_of_not_starts {x : Reg} (h : ¬ (s.st = 0 ∧ s.reg x ≠ 0)) :
    exec (.ldSt x) s = .next { s with st := s.reg x } := congrArg _ (if_neg h)

/-- Settles O40: a register write, and a write of `DT`. -/
theorem delayTimerMoves : Obligations.DelayTimerMoves := by
  unfold Obligations.DelayTimerMoves
  intro s x
  exact ⟨writesRegs_of_exec_setReg (exec_ldVxDt x s), _, exec_ldDt x s, rfl, rfl, fun _ => rfl⟩

/-- Settles O41: the buzzer starts, or LD_ST writes `ST` alone. -/
theorem soundTimerWrite : Obligations.SoundTimerWrite := by
  unfold Obligations.SoundTimerWrite
  intro s x
  by_cases h : s.st = 0 ∧ s.reg x ≠ 0
  · exact ⟨_, exec_ldSt_of_starts h, rfl, fun _ => ⟨rfl, rfl⟩, absurd h, rfl, fun _ => rfl⟩
  · exact ⟨_, exec_ldSt_of_not_starts h, rfl, fun hs => absurd hs h, fun _ => ⟨rfl, rfl⟩, rfl, fun _ => rfl⟩

/-- R180: a timer falls by one, never below 0. -/
theorem toNat_countDown (b : Byte) : (if b = 0 then 0 else b - 1).toNat = b.toNat - 1 := by
  by_cases h : b = 0
  · subst h
    rfl
  · have hpos : b.toNat ≠ 0 := fun e => h (BitVec.eq_of_toNat_eq e)
    have hlt := b.isLt
    have hone : (1 : Byte).toNat = 1 := rfl
    rw [if_neg h, BitVec.toNat_sub, hone]
    omega

theorem byte_eq_one_iff (b : Byte) : b = 1 ↔ b.toNat = 1 := BitVec.toNat_inj.symm

/-- Settles O42: the tick's four fields, each from its equation. -/
theorem tickCountsDown : Obligations.TickCountsDown := by
  unfold Obligations.TickCountsDown
  intro s
  rw [tick_eq]
  refine ⟨toNat_countDown s.dt, toNat_countDown s.st, fun h => ?_, fun h => ?_, rfl⟩
  · have hone : s.st = 1 := (byte_eq_one_iff s.st).mpr h
    exact ⟨if_pos hone, if_pos hone⟩
  · have hone : s.st ≠ 1 := mt (byte_eq_one_iff s.st).mp h
    exact ⟨if_neg hone, if_neg hone⟩

/-! ## One tick in every `M` timer steps (R33, R181) -/

/-- What one timer step does to the prescaler and the timers: a tick when the prescaler is 0. -/
theorem prescale_timers (s : State) :
    s.prescale.psc = (s.psc + 1) % s.params.clockMultiplier ∧
    s.prescale.dt.toNat = s.dt.toNat - (if s.psc = 0 then 1 else 0) ∧
    s.prescale.st.toNat = s.st.toNat - (if s.psc = 0 then 1 else 0) := by
  obtain ⟨h, e⟩ | ⟨h, e⟩ := prescale_cases s
  · obtain ⟨hdt, hst, -⟩ := tickCountsDown s
    rw [e, if_pos h]
    exact ⟨rfl, hdt, hst⟩
  · rw [e, if_neg h]
    exact ⟨rfl, rfl, rfl⟩

/-- How many of the next `n` timer steps tick: those that find the prescaler at 0. -/
def ticksIn (s : State) (n : Nat) : Nat := Nat.count (fun j => (s.psc + j) % s.params.clockMultiplier = 0) n

/-- The prescaler counts modulo `M`, and the timers fall by the ticks. -/
theorem iterate_prescale (hpsc : s.psc < s.params.clockMultiplier) (n : Nat) :
    (Nat.iterate State.prescale n s).params = s.params ∧
    (Nat.iterate State.prescale n s).psc = (s.psc + n) % s.params.clockMultiplier ∧
    (Nat.iterate State.prescale n s).dt.toNat = s.dt.toNat - ticksIn s n ∧
    (Nat.iterate State.prescale n s).st.toNat = s.st.toNat - ticksIn s n := by
  induction n with
  | zero => exact ⟨rfl, (Nat.mod_eq_of_lt hpsc).symm, rfl, rfl⟩
  | succ n ih =>
    obtain ⟨hparams, hphase, hdt, hst⟩ := ih
    obtain ⟨hphase', hdt', hst'⟩ := prescale_timers (Nat.iterate State.prescale n s)
    have hcount : ticksIn s (n + 1) =
        ticksIn s n + if (s.psc + n) % s.params.clockMultiplier = 0 then 1 else 0 := Nat.count_succ _ n
    rw [hphase] at hdt' hst'
    rw [Function.iterate_succ_apply', hcount]
    refine ⟨(prescale_params _).trans hparams, ?_, ?_, ?_⟩
    · rw [hphase', hparams, hphase, Nat.mod_add_mod, Nat.add_assoc]
    · rw [hdt', hdt, Nat.sub_sub]
    · rw [hst', hst, Nat.sub_sub]

/-- Among `M` consecutive numbers just one is a multiple of `M`. -/
theorem count_multiples_eq_one {p M : Nat} (hp : p < M) : Nat.count (fun j => (p + j) % M = 0) M = 1 := by
  have hM : 0 < M := by omega
  have hmultiple (j : Nat) : (p + j) % M = 0 ↔ j ≡ M - p [MOD M] := by
    have hsum : p + (M - p) = M := by omega
    rw [← (Nat.ModEq.refl p).add_iff_left, hsum, Nat.ModEq, Nat.mod_self]
  have hcount := Nat.count_modEq_card M hM (M - p)
  rw [Nat.div_self hM, Nat.mod_self, if_neg (Nat.not_lt_zero _)] at hcount
  simpa only [hmultiple] using hcount

/-- Settles O43: of `M` timer steps one ticks, and the prescaler has gone round. -/
theorem oneTickInEveryMCycles : Obligations.OneTickInEveryMCycles := by
  unfold Obligations.OneTickInEveryMCycles
  intro s hpsc
  obtain ⟨-, hphase, hdt, hst⟩ := iterate_prescale hpsc s.params.clockMultiplier
  rw [ticksIn, count_multiples_eq_one hpsc] at hdt hst
  rw [Nat.add_mod_right, Nat.mod_eq_of_lt hpsc] at hphase
  exact ⟨hphase, hdt, hst⟩

end Sys2Proof.Proofs
end

section
/-! PROOFS. The cycle, the pacing loop and the host (10_state.md R26, 70_reset_and_hazards.md R205, R215 to R217,
60_exceptions.md R176 to R178, R193): what a step is when a cycle is due, before the deadline, and on a turn of the
host. -/

namespace Sys2Proof.Proofs

open Sys2Proof.Machine Sys2Proof.Laws

variable {s : State} {time : Nat} {rest : List HostTurn}

/-! ## What a step of a running machine is -/

theorem loopTurn_of_le {sleep : Nat} (h : s.dl ≤ time) :
    loopTurn time sleep s = closeCycle (cycle { s with now := time }) := if_pos h

theorem loopTurn_of_lt {sleep : Nat} (h : time < s.dl) :
    loopTurn time sleep s = .next ({ s with now := time + max sleep s.params.oneMillisecond } : State).poll :=
  if_neg (by omega)

/-- R193: with turns of the host left, the next one is taken. -/
theorem step_of_host_cons {turn : HostTurn} (hrun : s.run = .running) (hhost : s.host = turn :: rest) :
    step s = takeTurn turn { s with host := rest } := by
  simp only [step, engineStep, hrun, runningStep, hhost]

/-- With no turn of the host left, time passes up to the deadline (log entry 7). -/
theorem step_of_host_nil (hrun : s.run = .running) (hhost : s.host = []) :
    step s = loopTurn (max s.now s.dl) 0 s := by
  simp only [step, engineStep, hrun, runningStep, hhost]

/-- R216: a cycle that is due runs. -/
theorem step_of_cycleDue (h : s.CycleDue time rest) :
    step s = closeCycle (cycle { s with now := time, host := rest }) := by
  obtain ⟨hrun, ⟨hhost, rfl, rfl⟩ | ⟨elapsed, sleep, hhost, rfl, hdue⟩⟩ := h
  · rw [step_of_host_nil hrun hhost, loopTurn_of_le (le_max_right _ _), ← hhost]
  · rw [step_of_host_cons hrun hhost]
    exact loopTurn_of_le (s := { s with host := rest }) hdue

/-! ## The fetch of a cycle -/

/-- R26: neither the clock nor the timer step changes what the fetch reads. -/
theorem fetch_after_timers (s : State) (time : Nat) (rest : List HostTurn) :
    fetch ({ s with now := time, host := rest } : State).prescale = fetch s := by
  rw [prescale_eq]
  rfl

/-- R54: a fetch in bounds. -/
theorem fetch_of_le (h : s.pc.toNat + 2 ≤ 4096) :
    fetch s = .ok (BitVec.ofNat 16 ((s.byteAt s.pc.toNat).toNat * 256 + (s.byteAt (s.pc.toNat + 1)).toNat)) := by
  rw [fetch_eq, if_pos h]
  rfl

/-- R54: a fetch out of bounds. -/
theorem fetch_of_lt (h : 4094 < s.pc.toNat) : fetch s = .error (.outOfBounds s.pc.toNat 2) := by
  rw [fetch_eq, if_neg (by simp only [heapSize]; omega)]

/-- R26: a due cycle whose word is `w` and instruction `i`. -/
theorem step_of_decode {w : Word} {i : Instr} (hdue : s.CycleDue time rest) (hf : fetch s = .ok w)
    (hd : decode w = .ok i) :
    step s = closeCycle (exec i ({ s with now := time, host := rest } : State).prescale.advance) := by
  rw [step_of_cycleDue hdue, cycle_eq ((fetch_after_timers s time rest).trans hf) hd]

/-- R54: a due cycle whose fetch faults stops. -/
theorem step_of_fetch_error {f : Fault} (hdue : s.CycleDue time rest) (hf : fetch s = .error f) :
    step s = .fault f := by
  rw [step_of_cycleDue hdue, cycle, fetch_after_timers, hf]
  rfl

/-- R171: a due cycle whose word is no instruction stops and names it. -/
theorem step_of_decode_error {w : Word} {e : DecodeError} (hdue : s.CycleDue time rest) (hf : fetch s = .ok w)
    (hd : decode w = .error e) : step s = .fault (.invalidInstruction w) := by
  have hcycle : cycle { s with now := time, host := rest } = .fault (.invalidInstruction w) := by
    simp only [cycle, fetch_after_timers, hf, hd, raise]
  rw [step_of_cycleDue hdue, hcycle]
  rfl

/-- Settles O44: the due cycle fetches the two bytes and runs what they decode to. -/
theorem stepRunsDecodedInstruction : Obligations.StepRunsDecodedInstruction := by
  unfold Obligations.StepRunsDecodedInstruction
  intro s time rest i hdue hpc hd
  refine ⟨step_of_decode hdue (fetch_of_le hpc) hd, ?_, fun _ => rfl, fun _ => rfl, fun _ => rfl⟩
  rw [prescale_eq]
  rfl

/-- Settles O45: the fetch faults, or the decoder refuses its word. -/
theorem unrunnableCyclesStop : Obligations.UnrunnableCyclesStop := by
  unfold Obligations.UnrunnableCyclesStop
  intro s time rest hdue
  refine ⟨fun hpc => step_of_fetch_error hdue (fetch_of_lt hpc), ?_⟩
  rintro hpc w rfl hill
  have hd := (illegalWordsAreTheTables _).1 hill
  exact step_of_decode_error hdue (fetch_of_le (by omega)) hd

/-! ## A jump to itself (R205) -/

/-- R103: class 1, format A. -/
theorem decode_assembleA_jp (nnn : BitVec 12) : decode (assembleA 0x1 nnn) = .ok (.jp nnn) := by
  have hc : 0x1 < 16 := by decide
  simp only [decode, fieldC_assembleA _ nnn hc, fieldNNN_assembleA _ nnn hc]

/-- The word `0x1000 + p` is the jump to `p`. -/
theorem decode_jump_to {p : Word} (hp : p.toNat < 4096) :
    decode (BitVec.ofNat 16 (0x1000 + p.toNat)) = .ok (.jp (BitVec.ofNat 12 p.toNat)) := by
  rw [← decode_assembleA_jp, assembleA, BitVec.toNat_ofNat, Nat.mod_eq_of_lt hp]

theorem zextAddr_ofNat {p : Word} (hp : p.toNat < 4096) : zextAddr (BitVec.ofNat 12 p.toNat) = p := by
  apply BitVec.eq_of_toNat_eq
  rw [toNat_zextAddr, BitVec.toNat_ofNat, Nat.mod_eq_of_lt hp]

/-- Settles O46: the cycle runs the timer step and writes the old `PC`. -/
theorem selfJumpStaysPut : Obligations.SelfJumpStaysPut := by
  unfold Obligations.SelfJumpStaysPut
  intro s time rest hdue hpc hself
  have hp : s.pc.toNat < 4096 := by omega
  have hd := decode_jump_to hp
  rw [← hself] at hd
  have hstep := step_of_decode hdue (fetch_of_le hpc) hd
  rw [exec_jp, zextAddr_ofNat hp] at hstep
  obtain ⟨-, hdt, hst⟩ := prescale_timers { s with now := time, host := rest }
  refine ⟨_, hstep, ?_, fun _ => ?_, hdt.trans ?_, hst.trans ?_⟩
  · simp only [← byte_eq_one_iff]
    rw [prescale_eq]
    rfl
  · rw [prescale_eq]
    rfl
  · by_cases h : s.psc = 0
    · simp [h]
    · simp [h]
  · by_cases h : s.psc = 0
    · simp [h]
    · simp [h]

/-! ## The idle turn, the poll and the host's turns -/

/-- Settles O47: the sleep is the longer of the turn's and one millisecond. -/
theorem idleTurnSleepsAndPolls : Obligations.IdleTurnSleepsAndPolls := by
  unfold Obligations.IdleTurnSleepsAndPolls
  intro s elapsed sleep rest hrun hhost hearly
  refine ⟨max sleep s.params.oneMillisecond, le_max_right _ _, le_max_left _ _, ?_⟩
  rw [step_of_host_cons hrun hhost]
  exact loopTurn_of_lt (s := { s with host := rest }) hearly

theorem poll_of_powerOff (h : s.powerOffSignal = true) :
    s.poll = { s with powerOffSignal := false, run := .halted, calls := .kbdPowerOffSignal :: s.calls } := if_pos h

theorem poll_of_reset (hp : s.powerOffSignal = false) (hr : s.resetSignal = true) :
    s.poll = ({ s with
      resetSignal := false, calls := .kbdResetSignal :: .kbdPowerOffSignal :: s.calls } : State).resetEngine := by
  simp [State.poll, State.emit, hp, hr]

theorem poll_of_none (hp : s.powerOffSignal = false) (hr : s.resetSignal = false) :
    s.poll = { s with calls := .kbdResetSignal :: .kbdPowerOffSignal :: s.calls } := by
  simp [State.poll, State.emit, hp, hr]

/-- Settles O48: the three cases of the poll, by the signals pending. -/
theorem pollReadsSignals : Obligations.PollReadsSignals := by
  unfold Obligations.PollReadsSignals
  intro s
  refine ⟨poll_of_powerOff, poll_of_none, fun hp hr => ⟨poll_of_reset hp hr, ?_⟩⟩
  rw [poll_of_reset hp hr]
  exact ⟨rfl, rfl, rfl, rfl⟩

/-- Settles O52: a turn of the host is the step, and only the clock's moves the engine. -/
theorem hostTurnsTouchOnlyInputs : Obligations.HostTurnsTouchOnlyInputs := by
  unfold Obligations.HostTurnsTouchOnlyInputs
  intro s h rest hrun hhost
  rw [step_of_host_cons hrun hhost]
  refine ⟨?_, ?_, ?_, ?_, fun hclock => ?_⟩
  · rintro pressed rfl
    rfl
  · rintro key rfl
    rfl
  · rintro rfl
    rfl
  · rintro rfl
    rfl
  · cases h with
    | clock elapsed sleep => exact absurd rfl (hclock elapsed sleep)
    | setKeys | reportKey | raiseReset | raisePowerOff => exact ⟨_, rfl, rfl, fun _ => rfl⟩

end Sys2Proof.Proofs
end

section
/-! PROOFS. Reset and load (70_reset_and_hazards.md R200 to R203): the heap a reset leaves, range by range, and the rest
of the state. -/

namespace Sys2Proof.Proofs

open Sys2Proof.Machine Sys2Proof.Laws

variable {t : State} {p : Params}

/-- R61: below the ROM's place the heap is the font and then zeros, which unlisted addresses read as. -/
theorem unlistedByte_of_lt (font : Font) (a : Fin 80) : unlistedByte font a.val = font.get a := dif_pos a.isLt

theorem unlistedByte_of_le (font : Font) {a : Nat} (h : 80 ≤ a) : unlistedByte font a = 0 :=
  dif_neg (by simp only [fontSize]; omega)

/-- R61, R200: a heap that a reset has loaded: the font, zeros, the ROM at 512, zeros. -/
theorem byteAt_of_resetHeap (hrom : p.rom.length ≤ maxRomLength) (hheap : t.heap = resetHeap p)
    (hparams : t.params = p) :
    (∀ a : Fin 80, t.byteAt a.val = p.font.get a) ∧ (∀ a, 80 ≤ a → a < 512 → t.byteAt a = 0) ∧
    (∀ j : Nat, j < p.rom.length → t.byteAt (512 + j) = p.rom.getD j 0) ∧
    (∀ a, 512 + p.rom.length ≤ a → t.byteAt a = 0) := by
  have hread (a : Nat) : t.byteAt a =
      if 512 ≤ a ∧ a < 512 + p.rom.length then p.rom.getD (a - 512) 0 else unlistedByte p.font a := by
    rw [State.byteAt, hheap, hparams]
    exact read_resetHeap hrom a
  refine ⟨fun a => ?_, fun a hlow hhigh => ?_, fun j hj => ?_, fun a ha => ?_⟩
  · have ha := a.isLt
    rw [hread, if_neg (by omega), unlistedByte_of_lt]
  · rw [hread, if_neg (by omega), unlistedByte_of_le _ hlow]
  · rw [hread, if_pos (by omega), Nat.add_sub_cancel_left]
  · rw [hread, if_neg (by omega), unlistedByte_of_le _ (by omega)]

/-- R200: the registers a reset clears. -/
theorem reg_of_zero (h : t.v = Vector.replicate 16 0) (r : Reg) : t.reg r = 0 := by
  rw [State.reg, h]
  exact Vector.get_replicate 16 0 r

/-- Settles O49: field by field, and the heap by its ranges. -/
theorem resetRestoresEverything : Obligations.ResetRestoresEverything := by
  unfold Obligations.ResetRestoresEverything
  rintro s t rfl hwf
  obtain ⟨hM, hrom, -⟩ := (params_wf_iff _).mp hwf
  obtain ⟨hfont, hbelow, hrombytes, habove⟩ := byteAt_of_resetHeap (t := s.resetEngine) hrom rfl rfl
  exact ⟨reg_of_zero rfl, rfl, rfl, rfl, rfl, rfl, fun k => Vector.get_replicate 16 0 k,
    hfont, hbelow, hrombytes, habove, pixel_darkScreen, rfl, Nat.mod_lt _ hM,
    rfl, rfl, rfl, rfl, rfl, rfl, rfl, rfl, rfl,
    fun h => by rw [resetEngine_resetSignal, h, Bool.false_and],
    fun h => by rw [resetEngine_powerOffSignal, h, Bool.false_and]⟩

/-- Settles O50: a load is refused, or resets the engine with the new ROM. -/
theorem loadResult : Obligations.LoadResult := by
  unfold Obligations.LoadResult
  intro s rom
  rw [load_eq]
  refine ⟨fun h => if_neg (by simp only [maxRomLength]; omega), fun hrom => ⟨_, if_pos hrom, ?_⟩⟩
  obtain ⟨hfont, hbelow, hrombytes, habove⟩ := byteAt_of_resetHeap (p := { s.params with rom := rom })
    (t := { ({ s with params := { s.params with rom := rom } } : State).resetEngine with run := .running }) hrom rfl rfl
  exact ⟨rfl, rfl, rfl, reg_of_zero rfl, rfl, rfl, rfl, hfont, hbelow, hrombytes, habove, pixel_darkScreen, rfl⟩

end Sys2Proof.Proofs
end
